-- ==== Sys2Proof/Word.lean ====
section
/-!
DEFINITION. The bit-vector types of the hardware (spec/00_scope.md R6, R8, R9): bytes, 16-bit words,
12-bit addresses, and the index of a general register.
-/

namespace Sys2Proof

/-- An 8-bit register, literal or memory byte (R6). -/
abbrev Byte := BitVec 8

/-- A 16-bit register or opcode word (R6, R47). -/
abbrev Word := BitVec 16

/-- The 12-bit address field `NNN` of an opcode word (R48). -/
abbrev Addr := BitVec 12

/-- A 4-bit register index `X` or `Y`, which selects `V[0]` to `V[15]` (R16, R49). -/
abbrev RegIdx := Fin 16

/-- The index of a key, 0x0 to 0xF (R22). -/
abbrev KeyIdx := Fin 16

/-- `zext_16` of R9. -/
abbrev zext16 {n : Nat} (b : BitVec n) : Word := b.setWidth 16

end Sys2Proof
end

