-- ==== Sys2Proof/Syntax.lean ====
section
/-!
DEFINITION. The instructions: one constructor per row of spec/opcode_table.json, in the table's order
(spec/30_encoding.md R51). Fields are the manual's: `X` and `Y` register indices, `NN` a byte literal,
`NNN` a 12-bit address, `N` a row count (R48, R49).
-/

namespace Sys2Proof

/-- The 33 instructions of R51 and the unrecognized word of R52. -/
inductive Instr where
  /-- `00E0` CLS (R63) -/
  | cls
  /-- `00EE` RET (R68) -/
  | ret
  /-- `1NNN` JP NNN (R69) -/
  | jp (nnn : Addr)
  /-- `2NNN` CALL NNN (R70) -/
  | call (nnn : Addr)
  /-- `3XNN` SE VX, NN (R72) -/
  | seImm (x : RegIdx) (nn : Byte)
  /-- `4XNN` SNE VX, NN (R73) -/
  | sneImm (x : RegIdx) (nn : Byte)
  /-- `5XY0` SE VX, VY (R74) -/
  | seReg (x y : RegIdx)
  /-- `6XNN` LD VX, NN (R78) -/
  | ldImm (x : RegIdx) (nn : Byte)
  /-- `7XNN` ADD VX, NN (R79) -/
  | addImm (x : RegIdx) (nn : Byte)
  /-- `8XY0` LD VX, VY (R80) -/
  | ldReg (x y : RegIdx)
  /-- `8XY1` OR VX, VY (R81) -/
  | orReg (x y : RegIdx)
  /-- `8XY2` AND VX, VY (R82) -/
  | andReg (x y : RegIdx)
  /-- `8XY3` XOR VX, VY (R83) -/
  | xorReg (x y : RegIdx)
  /-- `8XY4` ADD VX, VY (R84) -/
  | addReg (x y : RegIdx)
  /-- `8XY5` SUB VX, VY (R85) -/
  | subReg (x y : RegIdx)
  /-- `8XY6` SHR VX, VY (R87) -/
  | shrReg (x y : RegIdx)
  /-- `8XY7` SUBN VX, VY (R86) -/
  | subnReg (x y : RegIdx)
  /-- `8XYE` SHL VX, VY (R88) -/
  | shlReg (x y : RegIdx)
  /-- `9XY0` SNE VX, VY (R75) -/
  | sneReg (x y : RegIdx)
  /-- `ANNN` LD I, NNN (R91) -/
  | ldI (nnn : Addr)
  /-- `BNNN` JP V0, NNN (R71) -/
  | jpV0 (nnn : Addr)
  /-- `CXNN` RND VX, NN (R90) -/
  | rnd (x : RegIdx) (nn : Byte)
  /-- `DXYN` DRW VX, VY, N (R64) -/
  | drw (x y : RegIdx) (n : Fin 16)
  /-- `EX9E` SKP VX (R97) -/
  | skp (x : RegIdx)
  /-- `EXA1` SKNP VX (R98) -/
  | sknp (x : RegIdx)
  /-- `FX07` LD VX, DT (R99) -/
  | ldVxDt (x : RegIdx)
  /-- `FX15` LD DT, VX (R100) -/
  | ldDtVx (x : RegIdx)
  /-- `FX18` LD ST, VX (R101) -/
  | ldStVx (x : RegIdx)
  /-- `FX1E` ADD I, VX (R92) -/
  | addI (x : RegIdx)
  /-- `FX29` LD F, VX (R93) -/
  | ldF (x : RegIdx)
  /-- `FX33` LD B, VX (R94) -/
  | ldB (x : RegIdx)
  /-- `FX55` LD [I], VX (R95) -/
  | storeRegs (x : RegIdx)
  /-- `FX65` LD VX, [I] (R96) -/
  | loadRegs (x : RegIdx)
  /-- any word that matches no pattern above (R52) -/
  | unrecognized (w : Word)
deriving DecidableEq, Repr

end Sys2Proof
end

