-- ==== Sys2Proof/WellFormed.lean ====
section
/-!
DEFINITION. Well-formed instructions. Every field's type already has exactly the field's values
(spec/30_encoding.md R48), so one check is left: an unrecognized word is one of the words R52 lists.
-/

namespace Sys2Proof

/-- The unrecognized words exactly as R52 lists them, by the word's number: `n / 0x1000` is the major
nibble, `n % 0x10` the low nibble `N`, `n % 0x100` the low byte `NN`. -/
def isUnrecognized (w : Word) : Bool :=
  let n := w.toNat
  match n / 0x1000 with
  | 0x0 => n != 0x00E0 && n != 0x00EE
  | 0x5 => n % 0x10 != 0
  | 0x8 => [0x8, 0x9, 0xA, 0xB, 0xC, 0xD, 0xF].contains (n % 0x10)
  | 0x9 => n % 0x10 != 0
  | 0xE => !([0x9E, 0xA1].contains (n % 0x100))
  | 0xF => !([0x07, 0x15, 0x18, 0x1E, 0x29, 0x33, 0x55, 0x65].contains (n % 0x100))
  | _ => false

/-- Well-formedness of an instruction (R48, R52). -/
def Instr.wf : Instr → Bool
  | .cls => true
  | .ret => true
  | .jp _ => true
  | .call _ => true
  | .seImm _ _ => true
  | .sneImm _ _ => true
  | .seReg _ _ => true
  | .ldImm _ _ => true
  | .addImm _ _ => true
  | .ldReg _ _ => true
  | .orReg _ _ => true
  | .andReg _ _ => true
  | .xorReg _ _ => true
  | .addReg _ _ => true
  | .subReg _ _ => true
  | .shrReg _ _ => true
  | .subnReg _ _ => true
  | .shlReg _ _ => true
  | .sneReg _ _ => true
  | .ldI _ => true
  | .jpV0 _ => true
  | .rnd _ _ => true
  | .drw _ _ _ => true
  | .skp _ => true
  | .sknp _ => true
  | .ldVxDt _ => true
  | .ldDtVx _ => true
  | .ldStVx _ => true
  | .addI _ => true
  | .ldF _ => true
  | .ldB _ => true
  | .storeRegs _ => true
  | .loadRegs _ => true
  | .unrecognized w => isUnrecognized w

end Sys2Proof
end

