-- ==== Sys2Proof/Decode.lean ====
section
/-!
DEFINITION. The decoder, total on every word (spec/30_encoding.md R50 to R53) and on every list of bytes,
and after it the encoder, written from the layouts of R48 and the rows of spec/opcode_table.json.
-/

namespace Sys2Proof

/-! ### The fields of an opcode word (R11, R48) -/

/-- `w[15:12]`, the major opcode. -/
def fieldMajor (w : Word) : BitVec 4 := w.extractLsb' 12 4

/-- `X = w[11:8]`. -/
def fieldX (w : Word) : RegIdx := (w.extractLsb' 8 4).toFin

/-- `Y = w[7:4]`. -/
def fieldY (w : Word) : RegIdx := (w.extractLsb' 4 4).toFin

/-- `N = w[3:0]`: a selector, or the row count of `DXYN`. -/
def fieldN (w : Word) : Fin 16 := (w.extractLsb' 0 4).toFin

/-- `NN = w[7:0]`. -/
def fieldNN (w : Word) : Byte := w.extractLsb' 0 8

/-- `NNN = w[11:0]`. -/
def fieldNNN (w : Word) : Addr := w.extractLsb' 0 12

/-! ### Dispatch (R50) -/

/-- Major 0x0: the whole word selects (R50). -/
def decode0 (w : Word) : Instr :=
  if w = 0x00E0 then .cls
  else if w = 0x00EE then .ret
  else .unrecognized w

/-- Major 0x5: `N` must be 0 (R50, D6, log 11). -/
def decode5 (w : Word) : Instr :=
  if (fieldN w).val = 0 then .seReg (fieldX w) (fieldY w) else .unrecognized w

/-- Major 0x8: the low nibble `N` selects (R50). -/
def decode8 (w : Word) : Instr :=
  match (fieldN w).val with
  | 0x0 => .ldReg (fieldX w) (fieldY w)
  | 0x1 => .orReg (fieldX w) (fieldY w)
  | 0x2 => .andReg (fieldX w) (fieldY w)
  | 0x3 => .xorReg (fieldX w) (fieldY w)
  | 0x4 => .addReg (fieldX w) (fieldY w)
  | 0x5 => .subReg (fieldX w) (fieldY w)
  | 0x6 => .shrReg (fieldX w) (fieldY w)
  | 0x7 => .subnReg (fieldX w) (fieldY w)
  | 0xE => .shlReg (fieldX w) (fieldY w)
  | _ => .unrecognized w

/-- Major 0x9: `N` must be 0 (R50, D6, log 11). -/
def decode9 (w : Word) : Instr :=
  if (fieldN w).val = 0 then .sneReg (fieldX w) (fieldY w) else .unrecognized w

/-- Major 0xE: the low byte `NN` selects (R50). -/
def decodeE (w : Word) : Instr :=
  if fieldNN w = 0x9E then .skp (fieldX w)
  else if fieldNN w = 0xA1 then .sknp (fieldX w)
  else .unrecognized w

/-- Major 0xF: the low byte `NN` selects (R50). -/
def decodeF (w : Word) : Instr :=
  if fieldNN w = 0x07 then .ldVxDt (fieldX w)
  else if fieldNN w = 0x15 then .ldDtVx (fieldX w)
  else if fieldNN w = 0x18 then .ldStVx (fieldX w)
  else if fieldNN w = 0x1E then .addI (fieldX w)
  else if fieldNN w = 0x29 then .ldF (fieldX w)
  else if fieldNN w = 0x33 then .ldB (fieldX w)
  else if fieldNN w = 0x55 then .storeRegs (fieldX w)
  else if fieldNN w = 0x65 then .loadRegs (fieldX w)
  else .unrecognized w

/-- DECODE (spec/40_step_cycle.md R59): the word's instruction by its major nibble, then by the selector
of its family (R50). Reads no state, cannot fault. -/
def decode (w : Word) : Instr :=
  match (fieldMajor w).toNat with
  | 0x0 => decode0 w
  | 0x1 => .jp (fieldNNN w)
  | 0x2 => .call (fieldNNN w)
  | 0x3 => .seImm (fieldX w) (fieldNN w)
  | 0x4 => .sneImm (fieldX w) (fieldNN w)
  | 0x5 => decode5 w
  | 0x6 => .ldImm (fieldX w) (fieldNN w)
  | 0x7 => .addImm (fieldX w) (fieldNN w)
  | 0x8 => decode8 w
  | 0x9 => decode9 w
  | 0xA => .ldI (fieldNNN w)
  | 0xB => .jpV0 (fieldNNN w)
  | 0xC => .rnd (fieldX w) (fieldNN w)
  | 0xD => .drw (fieldX w) (fieldY w) (fieldN w)
  | 0xE => decodeE w
  | _ => decodeF w

/-! ### From bytes -/

/-- The word of two consecutive bytes, big-endian: the byte at the lower address is the high one
(spec/20_memory.md R32, R33). -/
def wordOfBytes (hi lo : Byte) : Word := hi ++ lo

/-- The byte at the lower address of a word, `w[15:8]` (R33). -/
def highByte (w : Word) : Byte := w.extractLsb' 8 8

/-- The byte at the higher address of a word, `w[7:0]` (R33). -/
def lowByte (w : Word) : Byte := w.extractLsb' 0 8

/-- Why a list of bytes holds no instruction. Every two bytes do (R53), so only a list that ends early
is rejected; safe (log 19). -/
inductive DecodeError where
  /-- the list is empty -/
  | noBytes
  /-- the list ends inside the opcode word -/
  | oneByte
deriving DecidableEq, Repr

/-- The instruction at the head of a list of bytes, and the bytes after it; always two bytes are
consumed (R54). -/
def decodeBytes : List Byte → Except DecodeError (Instr × List Byte)
  | [] => .error .noBytes
  | [_] => .error .oneByte
  | hi :: lo :: rest => .ok (decode (wordOfBytes hi lo), rest)

/-- The opcode word whose bits, numbered as spec/opcode_table.json numbers them, are the low `nbits`
bits of `w`, the bits above them zero. -/
def tableWord (nbits w : Nat) : Word := BitVec.ofNat 16 (w % 2 ^ nbits)

/-- The instruction the decoder reads from a word given as the opcode table numbers its bits; none for
more bits than the one instruction length (R54, log 19). -/
def decodeTableWord (nbits w : Nat) : Option Instr :=
  if 16 < nbits then none
  else
    match decodeBytes [highByte (tableWord nbits w), lowByte (tableWord nbits w)] with
    | .ok (i, _) => some i
    | .error _ => none

/-! ### The encoder (R48) -/

/-- Layout `op NNN`. -/
def layoutNNN (op : BitVec 4) (nnn : Addr) : Word := op ++ nnn

/-- Layout `op X NN`. -/
def layoutXNN (op : BitVec 4) (x : RegIdx) (nn : Byte) : Word :=
  op ++ ((BitVec.ofFin x : BitVec 4) ++ nn : BitVec 12)

/-- Layout `op X Y N`. -/
def layoutXYN (op : BitVec 4) (x y : RegIdx) (n : BitVec 4) : Word :=
  op ++ ((BitVec.ofFin x : BitVec 4) ++ ((BitVec.ofFin y : BitVec 4) ++ n : BitVec 8) : BitVec 12)

/-- The opcode word of an instruction, from the `encoding` of its row in spec/opcode_table.json. -/
def encode : Instr → Word
  | .cls => 0x00E0
  | .ret => 0x00EE
  | .jp nnn => layoutNNN 0x1 nnn
  | .call nnn => layoutNNN 0x2 nnn
  | .seImm x nn => layoutXNN 0x3 x nn
  | .sneImm x nn => layoutXNN 0x4 x nn
  | .seReg x y => layoutXYN 0x5 x y 0x0
  | .ldImm x nn => layoutXNN 0x6 x nn
  | .addImm x nn => layoutXNN 0x7 x nn
  | .ldReg x y => layoutXYN 0x8 x y 0x0
  | .orReg x y => layoutXYN 0x8 x y 0x1
  | .andReg x y => layoutXYN 0x8 x y 0x2
  | .xorReg x y => layoutXYN 0x8 x y 0x3
  | .addReg x y => layoutXYN 0x8 x y 0x4
  | .subReg x y => layoutXYN 0x8 x y 0x5
  | .shrReg x y => layoutXYN 0x8 x y 0x6
  | .subnReg x y => layoutXYN 0x8 x y 0x7
  | .shlReg x y => layoutXYN 0x8 x y 0xE
  | .sneReg x y => layoutXYN 0x9 x y 0x0
  | .ldI nnn => layoutNNN 0xA nnn
  | .jpV0 nnn => layoutNNN 0xB nnn
  | .rnd x nn => layoutXNN 0xC x nn
  | .drw x y n => layoutXYN 0xD x y (BitVec.ofFin n)
  | .skp x => layoutXNN 0xE x 0x9E
  | .sknp x => layoutXNN 0xE x 0xA1
  | .ldVxDt x => layoutXNN 0xF x 0x07
  | .ldDtVx x => layoutXNN 0xF x 0x15
  | .ldStVx x => layoutXNN 0xF x 0x18
  | .addI x => layoutXNN 0xF x 0x1E
  | .ldF x => layoutXNN 0xF x 0x29
  | .ldB x => layoutXNN 0xF x 0x33
  | .storeRegs x => layoutXNN 0xF x 0x55
  | .loadRegs x => layoutXNN 0xF x 0x65
  | .unrecognized w => w

/-- The two bytes of an instruction in memory order (R33). -/
def encodeBytes (i : Instr) : List Byte := [highByte (encode i), lowByte (encode i)]

/-! ### The opcode table (spec/opcode_table.json) -/

/-- The bits a row of the opcode table fixes (`mask`) and their values (`bits`, the table's `match`). -/
structure OpcodeRow where
  mask : Word
  bits : Word
deriving DecidableEq, Repr

/-- The row of the opcode table an instruction belongs to: its `mask` and `match` as the table writes
them. The unrecognized word's row fixes no bit. -/
def Instr.row : Instr → OpcodeRow
  | .cls => ⟨0xFFFF, 0x00E0⟩
  | .ret => ⟨0xFFFF, 0x00EE⟩
  | .jp _ => ⟨0xF000, 0x1000⟩
  | .call _ => ⟨0xF000, 0x2000⟩
  | .seImm _ _ => ⟨0xF000, 0x3000⟩
  | .sneImm _ _ => ⟨0xF000, 0x4000⟩
  | .seReg _ _ => ⟨0xF00F, 0x5000⟩
  | .ldImm _ _ => ⟨0xF000, 0x6000⟩
  | .addImm _ _ => ⟨0xF000, 0x7000⟩
  | .ldReg _ _ => ⟨0xF00F, 0x8000⟩
  | .orReg _ _ => ⟨0xF00F, 0x8001⟩
  | .andReg _ _ => ⟨0xF00F, 0x8002⟩
  | .xorReg _ _ => ⟨0xF00F, 0x8003⟩
  | .addReg _ _ => ⟨0xF00F, 0x8004⟩
  | .subReg _ _ => ⟨0xF00F, 0x8005⟩
  | .shrReg _ _ => ⟨0xF00F, 0x8006⟩
  | .subnReg _ _ => ⟨0xF00F, 0x8007⟩
  | .shlReg _ _ => ⟨0xF00F, 0x800E⟩
  | .sneReg _ _ => ⟨0xF00F, 0x9000⟩
  | .ldI _ => ⟨0xF000, 0xA000⟩
  | .jpV0 _ => ⟨0xF000, 0xB000⟩
  | .rnd _ _ => ⟨0xF000, 0xC000⟩
  | .drw _ _ _ => ⟨0xF000, 0xD000⟩
  | .skp _ => ⟨0xF0FF, 0xE09E⟩
  | .sknp _ => ⟨0xF0FF, 0xE0A1⟩
  | .ldVxDt _ => ⟨0xF0FF, 0xF007⟩
  | .ldDtVx _ => ⟨0xF0FF, 0xF015⟩
  | .ldStVx _ => ⟨0xF0FF, 0xF018⟩
  | .addI _ => ⟨0xF0FF, 0xF01E⟩
  | .ldF _ => ⟨0xF0FF, 0xF029⟩
  | .ldB _ => ⟨0xF0FF, 0xF033⟩
  | .storeRegs _ => ⟨0xF0FF, 0xF055⟩
  | .loadRegs _ => ⟨0xF0FF, 0xF065⟩
  | .unrecognized _ => ⟨0x0000, 0x0000⟩

/-- The table's 33 rows with fixed bits, in the table's order. -/
def opcodeRows : List OpcodeRow :=
  [⟨0xFFFF, 0x00E0⟩, ⟨0xFFFF, 0x00EE⟩, ⟨0xF000, 0x1000⟩, ⟨0xF000, 0x2000⟩, ⟨0xF000, 0x3000⟩,
   ⟨0xF000, 0x4000⟩, ⟨0xF00F, 0x5000⟩, ⟨0xF000, 0x6000⟩, ⟨0xF000, 0x7000⟩] ++
  [⟨0xF00F, 0x8000⟩, ⟨0xF00F, 0x8001⟩, ⟨0xF00F, 0x8002⟩, ⟨0xF00F, 0x8003⟩, ⟨0xF00F, 0x8004⟩,
   ⟨0xF00F, 0x8005⟩, ⟨0xF00F, 0x8006⟩, ⟨0xF00F, 0x8007⟩, ⟨0xF00F, 0x800E⟩] ++
  [⟨0xF00F, 0x9000⟩, ⟨0xF000, 0xA000⟩, ⟨0xF000, 0xB000⟩, ⟨0xF000, 0xC000⟩, ⟨0xF000, 0xD000⟩,
   ⟨0xF0FF, 0xE09E⟩, ⟨0xF0FF, 0xE0A1⟩] ++
  [⟨0xF0FF, 0xF007⟩, ⟨0xF0FF, 0xF015⟩, ⟨0xF0FF, 0xF018⟩, ⟨0xF0FF, 0xF01E⟩, ⟨0xF0FF, 0xF029⟩,
   ⟨0xF0FF, 0xF033⟩, ⟨0xF0FF, 0xF055⟩, ⟨0xF0FF, 0xF065⟩]

/-- A word has the fixed bits of a row. -/
def OpcodeRow.fits (r : OpcodeRow) (w : Word) : Prop := w &&& r.mask = r.bits

end Sys2Proof
end

