-- ==== Sys2Proof/Config.lean ====
section
/-!
DEFINITION. What is fixed for the machine (spec/00_scope.md R6), the font parameter (R7, R25), and the
values the spec leaves open, as constants without a body (R62, R119).
-/

namespace Sys2Proof.Config

/-- `MEM_SIZE` (R6): addresses 0x000 to 0xFFF. -/
abbrev memSize : Nat := 4096

/-- `ENTRY` (R6): the address of a program's first instruction. -/
abbrev entry : Nat := 0x200

/-- `MAX_PROGRAM` (R6): the most bytes LOAD accepts. -/
abbrev maxProgram : Nat := memSize - entry

/-- `STACK_DEPTH` (R6). -/
abbrev stackDepth : Nat := 12

/-- `DISPLAY_W` (R6). -/
abbrev displayWidth : Nat := 64

/-- `DISPLAY_H` (R6). -/
abbrev displayHeight : Nat := 32

/-- `FONT_SIZE` (R6): 16 glyphs of 5 bytes from FONT_BASE = 0x000. -/
abbrev fontSize : Nat := 80

/-- Glyph 0 of the font, the only one the source gives (R25). -/
def glyph0 : List Byte := [0xF0, 0x90, 0x90, 0x90, 0xF0]

/-- The open part of the parameter `FONT_TABLE` (R7, R25): the 75 bytes of glyphs 1 to F. -/
abbrev Glyphs := Vector Byte 75

/-- `FONT_TABLE` (R25): glyph 0 as the source fixes it, then the 75 bytes of the argument. -/
def fontTable (g : Glyphs) : List Byte := glyph0 ++ g.toList

/-- Glyphs 1 to 7 of the spec's default font. PRESUMED (R25 marks them general knowledge; log 2). -/
def glyphs1to7 : List Byte :=
  [0x20, 0x60, 0x20, 0x20, 0x70] ++ [0xF0, 0x10, 0xF0, 0x80, 0xF0] ++
  [0xF0, 0x10, 0xF0, 0x10, 0xF0] ++ [0x90, 0x90, 0xF0, 0x10, 0x10] ++
  [0xF0, 0x80, 0xF0, 0x10, 0xF0] ++ [0xF0, 0x80, 0xF0, 0x90, 0xF0] ++
  [0xF0, 0x10, 0x20, 0x40, 0x40]

/-- Glyphs 8 to F of the spec's default font. PRESUMED (R25 marks them general knowledge; log 2). -/
def glyphs8toF : List Byte :=
  [0xF0, 0x90, 0xF0, 0x90, 0xF0] ++ [0xF0, 0x90, 0xF0, 0x10, 0xF0] ++
  [0xF0, 0x90, 0xF0, 0x90, 0x90] ++ [0xE0, 0x90, 0xE0, 0x90, 0xE0] ++
  [0xF0, 0x80, 0x80, 0x80, 0xF0] ++ [0xE0, 0x90, 0x90, 0x90, 0xE0] ++
  [0xF0, 0x80, 0xF0, 0x80, 0xF0] ++ [0xF0, 0x80, 0xF0, 0x80, 0x80]

/-- The spec's default for the open part of `FONT_TABLE` (R25). PRESUMED, unsafe for claims about the
font bytes 0x005 to 0x04F after reset (log 2). -/
def defaultGlyphs : Glyphs := ⟨(glyphs1to7 ++ glyphs8toF).toArray, rfl⟩

/-- The byte `rnd` the environment supplies to the STEP that makes draw number `n` (R62, R90): a free
value (log 1). -/
opaque rng (n : Nat) : Byte

/-! After a failed LOAD every state item but STATUS is unspecified (R119). Each is a free value, indexed
by the number of the draw (log 3). -/

/-- `V[k]` after a failed LOAD (R119). -/
opaque failedLoadV (n k : Nat) : Byte
/-- `I` after a failed LOAD (R119). -/
opaque failedLoadI (n : Nat) : Word
/-- `PC` after a failed LOAD (R119). -/
opaque failedLoadPc (n : Nat) : Word
/-- `STACK[k]` after a failed LOAD (R119). -/
opaque failedLoadStack (n k : Nat) : Word
/-- `SP` after a failed LOAD (R119). -/
opaque failedLoadSp (n : Nat) : Fin 13
/-- `DT` after a failed LOAD (R119). -/
opaque failedLoadDt (n : Nat) : Byte
/-- `ST` after a failed LOAD (R119). -/
opaque failedLoadSt (n : Nat) : Byte
/-- `MEM[a]` after a failed LOAD (R119). -/
opaque failedLoadMem (n a : Nat) : Byte
/-- Row `y` of `FB` after a failed LOAD (R119). -/
opaque failedLoadFb (n y : Nat) : BitVec 64
/-- `KEY` after a failed LOAD (R119). -/
opaque failedLoadKey (n : Nat) : BitVec 16
/-- `FAULT_PC` after a failed LOAD (R102, R119). -/
opaque failedLoadFaultPc (n : Nat) : Word

end Sys2Proof.Config
end

