-- ==== Sys2Proof/Machine/State.lean ====
section
/-!
DEFINITION. The machine's state (spec/10_state.md R15: one field per row of its table), the codes of
`STATUS` (spec/60_exceptions.md R102), the state after reset (R27, spec/70_reset_and_hazards.md R121), and
the reason types of a step's outcome.
-/

namespace Sys2Proof.Machine

/-- The fault kinds a STEP can raise (R102). Taking one is a next state (R103), so these are values of
`STATUS`, not outcomes of a step. -/
inductive FaultCode where
  /-- push with SP = 12 (`2NNN`) -/
  | stackOverflow
  /-- pop with SP = 0 (`00EE`) -/
  | stackUnderflow
  /-- an access above 0xFFF (fetch, `DXYN`, `FX33`, `FX55`, `FX65`) -/
  | addressRange
  /-- a key index above 0x0F (`EX9E`, `EXA1`) -/
  | keyRange
deriving DecidableEq, Repr

/-- The ways a LOAD fails (R102, R118). -/
inductive LoadError where
  /-- the source is unreadable or absent -/
  | unreadable
  /-- the image is longer than 3584 bytes -/
  | tooLarge
deriving DecidableEq, Repr

/-- `STATUS` (R24): `OK`, or what stopped the block. -/
inductive Status where
  | ok
  | fault (c : FaultCode)
  | loadError (e : LoadError)
deriving DecidableEq, Repr

/-- Memory: the cells that differ from what an unlisted address reads as, by rising address. -/
abbrev Memory := List Host.Cell

/-- The framebuffer's 64 x 32 grid as 32 rows of 64 bits: pixel (x, y) is bit `x` of row `y` (R23). -/
abbrev Frame := Vector (BitVec 64) 32

/-- Every pixel off. -/
def Frame.blank : Frame := Vector.replicate 32 0

/-- The architectural state (R15), and two fields of the model's own: `rnd`, the input byte of the STEP
in progress (R56), and `draws`, the count of free values drawn (log 1). -/
structure State where
  /-- `V[0..15]` (R16, R17) -/
  v : Vector Byte 16
  /-- `I` (R19) -/
  i : Word
  /-- `PC` (R18) -/
  pc : Word
  /-- `STACK[0..11]` (R20) -/
  stack : Vector Word 12
  /-- `SP`, the number of entries held, 0 to 12 (R20) -/
  sp : Fin 13
  /-- `DT` (R21) -/
  dt : Byte
  /-- `ST` (R21) -/
  st : Byte
  /-- `MEM[0..4095]` (R28) -/
  mem : Memory
  /-- `FB[0..2047]`, pixel `y*64+x` at bit `x` of row `y` (R23) -/
  fb : Frame
  /-- `KEY[0..15]`, key `k` at bit `k` (R22) -/
  key : BitVec 16
  /-- `STATUS` (R24) -/
  status : Status
  /-- `FAULT_PC` (R24) -/
  faultPc : Word
  /-- the model's own: the byte `rnd` of the STEP in progress (R56; log 1) -/
  rnd : Byte
  /-- the model's own: how many free values have been drawn (log 1) -/
  draws : Nat
deriving DecidableEq, Repr

/-- Reasons for a step to end in `Host.Outcome.fault`: NONE. Every fault of the spec has an entry the
spec describes (R103), so the machine takes it and answers a next state; safe (log 6). -/
inductive Fault where
deriving DecidableEq, Repr

/-- Reasons for a step to be refused. -/
inductive Refusal where
  /-- raised by an arm of `exec` for an instruction that has no meaning yet; no arm raises it now. Safe. -/
  | notModelled (mnemonic : String)
deriving DecidableEq, Repr

/-- Power-on (R121): the state of a successful LOAD of the empty image, every item at its value of R27.
Memory lists nothing: an unlisted address reads as the font and then zeros (`Memory.unlisted`). `rnd` and
`draws` are DESIGN CHOICE (log 1). -/
def State.reset : State where
  v := Vector.replicate 16 0
  i := 0
  pc := 0x200
  stack := Vector.replicate 12 0
  sp := 0
  dt := 0
  st := 0
  mem := []
  fb := Frame.blank
  key := 0
  status := .ok
  faultPc := 0
  rnd := 0
  draws := 0

end Sys2Proof.Machine
end

