-- ==== Sys2Proof/Machine/Ops.lean ====
section
/-!
DEFINITION. The named operations the meanings share: memory (spec/20_memory.md), registers
(spec/10_state.md), the program counter (spec/40_step_cycle.md), the call stack (spec/42_control_flow.md),
the framebuffer (spec/41_display.md), and taking a fault (spec/60_exceptions.md R103).
-/

namespace Sys2Proof.Machine

/-! ### Memory -/

/-- What an unlisted address reads as: the reset contents of R27 and R121, the font at 0x000 to 0x04F
(glyphs 1 to F PRESUMED, log 2) and 0x00 from 0x050 on. -/
def Memory.unlisted (a : Nat) : Byte := (Config.fontTable Config.defaultGlyphs).getD a 0

/-- `MEM[a]` for a valid address. -/
def Memory.read : Memory → Nat → Byte
  | [], a => Memory.unlisted a
  | (b, w) :: m, a => if b = a then w else Memory.read m a

/-- The cells but the one at `a`. -/
def Memory.without (m : Memory) (a : Nat) : Memory := m.filter fun c => c.1 != a

/-- The cells with one more, where its address belongs. -/
def Memory.place : Memory → Nat → Byte → Memory
  | [], a, w => [(a, w)]
  | (b, u) :: m, a, w => if a < b then (a, w) :: (b, u) :: m else (b, u) :: Memory.place m a w

/-- `MEM[a] <- w` for a valid address, keeping the canonical form: no cell is kept that holds what an
unlisted address reads as. -/
def Memory.write (m : Memory) (a : Nat) (w : Byte) : Memory :=
  if w = Memory.unlisted a then m.without a else (m.without a).place a w

/-- The canonical form of the cells from address `lo` on: addresses rise strictly and lie below 4096, and
no cell holds what an unlisted address reads as. -/
def Memory.wfFrom : Nat → Memory → Bool
  | _, [] => true
  | lo, (a, w) :: m =>
    decide (lo ≤ a) && decide (a < Config.memSize) && decide (w ≠ Memory.unlisted a) &&
      Memory.wfFrom (a + 1) m

/-- The canonical form of memory. -/
def Memory.wf (m : Memory) : Bool := Memory.wfFrom 0 m

/-- `MemRead(a, 1)` (R30): none where it raises ADDRESS_RANGE. -/
def memRead (m : Memory) (a : Nat) : Option Byte := if a > 0xFFF then none else some (m.read a)

/-- `MemWrite(a, 1, w)` (R31): none where it raises ADDRESS_RANGE. -/
def memWrite (m : Memory) (a : Nat) (w : Byte) : Option Memory :=
  if a > 0xFFF then none else some (m.write a w)

/-- Every one of the `len` addresses from `base` on is valid (R29, R37): addresses are unbounded
naturals, and no address at all is always valid. -/
def rangeOk (base len : Nat) : Bool := len == 0 || base + len ≤ Config.memSize

/-- Writes bytes to consecutive addresses from `base` on, in ascending order (R33). -/
def writeBytes (m : Memory) (base : Nat) : List Byte → Memory
  | [] => m
  | w :: ws => writeBytes (m.write base w) (base + 1) ws

/-- A memory that holds `f a` at each of its 4096 addresses `a`. -/
def memoryOf (f : Nat → Byte) : Memory :=
  (List.range Config.memSize).filterMap fun a => if f a = Memory.unlisted a then none else some (a, f a)

/-- FETCH (R32, R57): the word at `pc` and `pc + 1`, big-endian; none where an address is above 0xFFF. -/
def fetch (m : Memory) (pc : Word) : Option Word := do
  let hi ← memRead m pc.toNat
  let lo ← memRead m (pc.toNat + 1)
  return wordOfBytes hi lo

/-! ### Registers -/

/-- `V[x]` (R16). -/
def State.reg (s : State) (x : RegIdx) : Byte := s.v[x]

/-- `V[x] <- b` (R16): no register is hardwired. -/
def State.setReg (s : State) (x : RegIdx) (b : Byte) : State := { s with v := s.v.set x b }

/-- All general registers at once. -/
def State.setV (s : State) (v : Vector Byte 16) : State := { s with v := v }

/-- `VF`, the register that doubles as the flag (R17). -/
def vf : RegIdx := 15

/-- `I <- w` (R19). -/
def State.setI (s : State) (w : Word) : State := { s with i := w }

/-- `PC <- w` (R18). -/
def State.setPc (s : State) (w : Word) : State := { s with pc := w }

/-- `DT <- b` (R21). -/
def State.setDt (s : State) (b : Byte) : State := { s with dt := b }

/-- `ST <- b` (R21). -/
def State.setSt (s : State) (b : Byte) : State := { s with st := b }

/-- All of memory at once. -/
def State.setMem (s : State) (m : Memory) : State := { s with mem := m }

/-- All of the framebuffer at once. -/
def State.setFb (s : State) (f : Frame) : State := { s with fb := f }

/-- All of the keypad at once. -/
def State.setKeys (s : State) (k : BitVec 16) : State := { s with key := k }

/-- The stack's entries and pointer together. -/
def State.setStack (s : State) (entries : Vector Word 12) (p : Fin 13) : State :=
  { s with stack := entries, sp := p }

/-- `V[k] <- MEM[base + k]` for each `k < n`, in ascending order (R96). -/
def loadFrom (m : Memory) (base : Nat) : Nat → Vector Byte 16 → Vector Byte 16
  | 0, v => v
  | n + 1, v => (loadFrom m base n v).setIfInBounds n (m.read (base + n))

/-- The registers `V[0]` to `V[x]` in order (R95). -/
def regsUpTo (s : State) (x : RegIdx) : List Byte := s.v.toList.take (x.val + 1)

/-! ### The program counter -/

/-- `PC <- trunc_16(PC + 2)`: the increment before execution (R58). -/
def State.advance (s : State) : State := s.setPc (s.pc + 2)

/-- "Skip next instruction" when `c` holds (R61): a further `PC <- trunc_16(PC + 2)`. -/
def State.skipIf (s : State) (c : Bool) : State := if c then s.setPc (s.pc + 2) else s

/-! ### The call stack -/

/-- PUSH (R66): none where it raises STACK_OVERFLOW. -/
def State.push (s : State) (w : Word) : Option State :=
  if h : s.sp.val < 12 then
    some (s.setStack (s.stack.set s.sp.val w h) ⟨s.sp.val + 1, by omega⟩)
  else none

/-- POP (R67): the entry and the state after, the entry not cleared; none where it raises
STACK_UNDERFLOW. -/
def State.pop (s : State) : Option (Word × State) :=
  if h : s.sp.val = 0 then none
  else some (s.stack[s.sp.val - 1]'(by omega), s.setStack s.stack ⟨s.sp.val - 1, by omega⟩)

/-! ### The framebuffer -/

/-- The pixel at the row-major index `p = y*64+x` of a frame (R23); past the last pixel there is none. -/
def Frame.pixel (f : Frame) (p : Nat) : Bool :=
  if h : p / 64 < 32 then f[p / 64].getLsbD (p % 64) else false

/-- The frame with the pixel at index `p` inverted. -/
def Frame.invert (f : Frame) (p : Nat) : Frame :=
  if h : p / 64 < 32 then f.set (p / 64) (f[p / 64] ^^^ (1#64 <<< (p % 64))) h else f

/-- `FB[p]` (R23). -/
def State.pixel (s : State) (p : Nat) : Bool := s.fb.pixel p

/-- One sprite bit that is 1, drawn at pixel `p` (R64): the collision result becomes true if the pixel
was set, and the pixel is inverted. -/
def drawPixel (p : Nat) (c : Frame × Bool) : Frame × Bool :=
  (c.1.invert p, c.2 || c.1.pixel p)

/-- One sprite row (R64): bit 7 leftmost at column `x0`; columns past 63 are clipped (log 13). -/
def drawRow (b : Byte) (x0 y : Nat) (c : Frame × Bool) : Frame × Bool :=
  (List.range 8).foldl
    (fun c k => if x0 + k ≤ 63 ∧ b.getLsbD (7 - k) then drawPixel (y * 64 + (x0 + k)) c else c) c

/-- The sprite's drawn rows (R64): row `r` from the byte at `base + r`, at screen row `y0 + r`. -/
def drawRows (m : Memory) (base x0 y0 rows : Nat) (c : Frame × Bool) : Frame × Bool :=
  (List.range rows).foldl (fun c r => drawRow (m.read (base + r)) x0 (y0 + r) c) c

/-! ### Taking a fault -/

/-- Fault entry (R103): `STATUS` and `FAULT_PC` are written and nothing else. The state is the one at
the check that failed, so `PC` keeps its value there. There is no handler, no saved mode and no return
(R107): the only way on is LOAD. -/
def State.enterFault (s : State) (c : FaultCode) (wordAt : Word) : State :=
  { s with status := .fault c, faultPc := wordAt }

/-- `raise Fault(code)` while an instruction executes (R103): `PC` has been advanced past the
instruction (R58), so the instruction stands at `PC - 2` (log 7). -/
def raise (c : FaultCode) (s : State) : Host.Outcome State Fault Refusal :=
  .next (s.enterFault c (s.pc - 2))

end Sys2Proof.Machine
end

