-- ==== Sys2Proof/Machine/Flags.lean ====
section
/-!
DEFINITION. The flag computations, all of them values written to `VF` (spec/10_state.md R17): carry,
no-borrow, the shifted-out bit, collision (spec/43_alu.md R84 to R88, spec/41_display.md R64).
-/

namespace Sys2Proof.Machine

/-- A flag as the byte 1 or 0. -/
def flagByte (c : Bool) : Byte := if c then 1 else 0

/-- Carry: the unwrapped sum exceeds 255 (R84). -/
def carryFlag (vx vy : Byte) : Byte := flagByte (decide (vx.toNat + vy.toNat > 255))

/-- No borrow: the minuend is at least the subtrahend, before the subtraction (R85, R86). -/
def noBorrowFlag (minuend subtrahend : Byte) : Byte := flagByte (decide (minuend.toNat ≥ subtrahend.toNat))

/-- The bit a right shift moves out: bit 0 before the shift (R87). -/
def lowBitFlag (vy : Byte) : Byte := vy &&& 1

/-- The bit a left shift moves out: bit 7 before the shift (R88). -/
def highBitFlag (vy : Byte) : Byte := (vy >>> 7) &&& 1

/-- Collision: some set pixel was turned off (R64). -/
def collisionFlag (hit : Bool) : Byte := flagByte hit

end Sys2Proof.Machine
end

