-- ==== Sys2Proof/Machine/Operands.lean ====
section
/-!
DEFINITION. The operand forms (spec/30_encoding.md R49; spec/44_index_memory.md section 1): jump targets,
the effective address "I plus a constant offset", the key number, the glyph address, the sprite's origin
and extent, and the decimal digits.
-/

namespace Sys2Proof.Machine

/-- A 12-bit address as a 16-bit value, no sign extension (R49). -/
def addressOf (nnn : Addr) : Word := zext16 nnn

/-- The target of `BNNN`: `NNN + V[0]` in 16 bits (R71). -/
def indexedTarget (nnn : Addr) (v0 : Byte) : Word := zext16 nnn + zext16 v0

/-- The base of a memory operand: `I` as an unbounded natural (R29). -/
def State.base (s : State) : Nat := s.i.toNat

/-- `I + V[X]` in 16 bits (R92). -/
def indexSum (i : Word) (vx : Byte) : Word := i + zext16 vx

/-- The font glyph address `V[X] * 5`; the whole of `V[X]` is used (R93). -/
def glyphAddress (vx : Byte) : Word := zext16 vx * 5

/-- The key-down bit of key number `k` (R22). -/
def State.keyDown (s : State) (k : Nat) : Bool := s.key.getLsbD k

/-- The key number in a register: none where it is above 0x0F (R97, R98). -/
def keyNumber (vx : Byte) : Option KeyIdx := if h : vx.toNat < 16 then some ⟨vx.toNat, h⟩ else none

/-- A sprite's origin column `V[X] mod 64` (R64, R65). -/
def originX (vx : Byte) : Nat := vx.toNat % Config.displayWidth

/-- A sprite's origin row `V[Y] mod 32` (R64, R65). -/
def originY (vy : Byte) : Nat := vy.toNat % Config.displayHeight

/-- How many of a sprite's `n` rows are drawn: those on the screen (R64). -/
def drawnRows (n : Fin 16) (vy : Byte) : Nat := min n.val (Config.displayHeight - originY vy)

/-- The decimal digits of a byte: hundreds, tens, ones (R94). -/
def decimalDigits (vx : Byte) : List Byte := [vx / 100, vx / 10 % 10, vx % 10]

end Sys2Proof.Machine
end

