-- ==== Sys2Proof/Machine/Alu.lean ====
section
/-!
DEFINITION. The register and ALU family (spec/43_alu.md). All arithmetic is unsigned and wraps modulo 256
(R77). Operands are latched before any write, and of two writes to one register the later stays
(spec/10_state.md R26; log 10).
-/

namespace Sys2Proof.Machine

/-- The result to `V[X]`, then the flag to `VF`: the order of R84, R85 and R86. -/
def State.resultThenFlag (s : State) (x : RegIdx) (result flag : Byte) : State :=
  (s.setReg x result).setReg vf flag

/-- The flag to `VF`, then the result to `V[X]`: the order of R87 and R88. -/
def State.flagThenResult (s : State) (x : RegIdx) (flag result : Byte) : State :=
  (s.setReg vf flag).setReg x result

/-- `6XNN` (R78). -/
def execLdImm (x : RegIdx) (nn : Byte) (s : State) : Host.Outcome State Fault Refusal :=
  .next (s.setReg x nn)

/-- `7XNN` (R79): wraps, no carry to `VF`. -/
def execAddImm (x : RegIdx) (nn : Byte) (s : State) : Host.Outcome State Fault Refusal :=
  .next (s.setReg x (s.reg x + nn))

/-- `8XY0` (R80). -/
def execLdReg (x y : RegIdx) (s : State) : Host.Outcome State Fault Refusal :=
  .next (s.setReg x (s.reg y))

/-- `8XY1` (R81): `VF` is not reset (log 12). -/
def execOrReg (x y : RegIdx) (s : State) : Host.Outcome State Fault Refusal :=
  .next (s.setReg x (s.reg x ||| s.reg y))

/-- `8XY2` (R82): `VF` is not reset (log 12). -/
def execAndReg (x y : RegIdx) (s : State) : Host.Outcome State Fault Refusal :=
  .next (s.setReg x (s.reg x &&& s.reg y))

/-- `8XY3` (R83): `VF` is not reset (log 12). -/
def execXorReg (x y : RegIdx) (s : State) : Host.Outcome State Fault Refusal :=
  .next (s.setReg x (s.reg x ^^^ s.reg y))

/-- `8XY4` (R84): the wrapped sum, then the carry. -/
def execAddReg (x y : RegIdx) (s : State) : Host.Outcome State Fault Refusal :=
  .next (s.resultThenFlag x (s.reg x + s.reg y) (carryFlag (s.reg x) (s.reg y)))

/-- `8XY5` (R85): `VX - VY`, then the no-borrow flag. -/
def execSubReg (x y : RegIdx) (s : State) : Host.Outcome State Fault Refusal :=
  .next (s.resultThenFlag x (s.reg x - s.reg y) (noBorrowFlag (s.reg x) (s.reg y)))

/-- `8XY7` (R86): `VY - VX`, then the no-borrow flag. -/
def execSubnReg (x y : RegIdx) (s : State) : Host.Outcome State Fault Refusal :=
  .next (s.resultThenFlag x (s.reg y - s.reg x) (noBorrowFlag (s.reg y) (s.reg x)))

/-- `8XY6` (R87, R89): the source is `VY`; bit 0 to `VF`, then the logical right shift. -/
def execShrReg (x y : RegIdx) (s : State) : Host.Outcome State Fault Refusal :=
  .next (s.flagThenResult x (lowBitFlag (s.reg y)) (s.reg y >>> 1))

/-- `8XYE` (R88, R89): the source is `VY`; bit 7 to `VF`, then the left shift. -/
def execShlReg (x y : RegIdx) (s : State) : Host.Outcome State Fault Refusal :=
  .next (s.flagThenResult x (highBitFlag (s.reg y)) (s.reg y <<< 1))

/-- `CXNN` (R90): the byte the environment supplied to this STEP, masked by `NN` (log 1). -/
def execRnd (x : RegIdx) (nn : Byte) (s : State) : Host.Outcome State Fault Refusal :=
  .next (s.setReg x (s.rnd &&& nn))

end Sys2Proof.Machine
end

