-- ==== Sys2Proof/Machine/ControlFlow.lean ====
section
/-!
DEFINITION. The control-transfer family and the call stack (spec/42_control_flow.md). `PC` has already
been advanced past the instruction (spec/40_step_cycle.md R58).
-/

namespace Sys2Proof.Machine

/-- `00EE` (R68): `PC <- POP()`. -/
def execRet (s : State) : Host.Outcome State Fault Refusal :=
  match s.pop with
  | some (target, t) => .next (t.setPc target)
  | none => raise .stackUnderflow s

/-- `1NNN` (R69). -/
def execJp (nnn : Addr) (s : State) : Host.Outcome State Fault Refusal := .next (s.setPc (addressOf nnn))

/-- `2NNN` (R70): pushes the advanced `PC`, the address of the next instruction. -/
def execCall (nnn : Addr) (s : State) : Host.Outcome State Fault Refusal :=
  match s.push s.pc with
  | some t => .next (t.setPc (addressOf nnn))
  | none => raise .stackOverflow s

/-- `BNNN` (R71): the register added is always V0. -/
def execJpV0 (nnn : Addr) (s : State) : Host.Outcome State Fault Refusal :=
  .next (s.setPc (indexedTarget nnn (s.reg 0)))

/-- `3XNN` (R72). -/
def execSeImm (x : RegIdx) (nn : Byte) (s : State) : Host.Outcome State Fault Refusal :=
  .next (s.skipIf (s.reg x == nn))

/-- `4XNN` (R73). -/
def execSneImm (x : RegIdx) (nn : Byte) (s : State) : Host.Outcome State Fault Refusal :=
  .next (s.skipIf (s.reg x != nn))

/-- `5XY0` (R74). -/
def execSeReg (x y : RegIdx) (s : State) : Host.Outcome State Fault Refusal :=
  .next (s.skipIf (s.reg x == s.reg y))

/-- `9XY0` (R75). -/
def execSneReg (x y : RegIdx) (s : State) : Host.Outcome State Fault Refusal :=
  .next (s.skipIf (s.reg x != s.reg y))

/-- The unrecognized word (spec/30_encoding.md R52, spec/40_step_cycle.md R60): nothing beyond the `PC`
increment already performed. -/
def execUnrecognized (s : State) : Host.Outcome State Fault Refusal := .next s

end Sys2Proof.Machine
end

