-- ==== Sys2Proof/Machine/Display.lean ====
section
/-!
DEFINITION. The display family (spec/41_display.md): `00E0` and `DXYN`. Every meaning is the EXECUTE phase
of spec/40_step_cycle.md R60: `PC` has already been advanced past the instruction (R58).
-/

namespace Sys2Proof.Machine

/-- `00E0` (R63): every pixel off. -/
def execCls (s : State) : Host.Outcome State Fault Refusal := .next (s.setFb Frame.blank)

/-- The framebuffer and the collision result after the drawn rows of a sprite (R64). -/
def spriteDrawn (x y : RegIdx) (n : Fin 16) (s : State) : Frame × Bool :=
  drawRows s.mem s.base (originX (s.reg x)) (originY (s.reg y)) (drawnRows n (s.reg y)) (s.fb, false)

/-- `DXYN` (R64): every drawn row's address is checked before any write (R37); then the sprite is XORed
onto the framebuffer and `VF` receives the collision result. The coordinates are the registers' values
before `VF` is written (R26). -/
def execDrw (x y : RegIdx) (n : Fin 16) (s : State) : Host.Outcome State Fault Refusal :=
  if rangeOk s.base (drawnRows n (s.reg y)) then
    .next ((s.setFb (spriteDrawn x y n s).1).setReg vf (collisionFlag (spriteDrawn x y n s).2))
  else raise .addressRange s

end Sys2Proof.Machine
end

