-- ==== Sys2Proof/Machine/IndexMemory.lean ====
section
/-!
DEFINITION. The index register and memory transfers (spec/44_index_memory.md). Multi-byte instructions
check every address first (spec/20_memory.md R37); none changes `I` but the three that set it.
-/

namespace Sys2Proof.Machine

/-- `ANNN` (R91). -/
def execLdI (nnn : Addr) (s : State) : Host.Outcome State Fault Refusal := .next (s.setI (addressOf nnn))

/-- `FX1E` (R92): 16-bit wrap, `VF` unchanged (log 12). -/
def execAddI (x : RegIdx) (s : State) : Host.Outcome State Fault Refusal :=
  .next (s.setI (indexSum s.i (s.reg x)))

/-- `FX29` (R93). -/
def execLdF (x : RegIdx) (s : State) : Host.Outcome State Fault Refusal :=
  .next (s.setI (glyphAddress (s.reg x)))

/-- Stores bytes from `I` on, all addresses checked first (R37). -/
def storeAtI (s : State) (bytes : List Byte) : Host.Outcome State Fault Refusal :=
  if rangeOk s.base bytes.length then .next (s.setMem (writeBytes s.mem s.base bytes))
  else raise .addressRange s

/-- `FX33` (R94): hundreds, tens and ones of `V[X]`. -/
def execLdB (x : RegIdx) (s : State) : Host.Outcome State Fault Refusal :=
  storeAtI s (decimalDigits (s.reg x))

/-- `FX55` (R95): `V[0]` to `V[X]`. -/
def execStoreRegs (x : RegIdx) (s : State) : Host.Outcome State Fault Refusal :=
  storeAtI s (regsUpTo s x)

/-- `FX65` (R96): `V[0]` to `V[X]` from memory at `I`, all addresses checked first (R37). -/
def execLoadRegs (x : RegIdx) (s : State) : Host.Outcome State Fault Refusal :=
  if rangeOk s.base (x.val + 1) then .next (s.setV (loadFrom s.mem s.base (x.val + 1) s.v))
  else raise .addressRange s

end Sys2Proof.Machine
end

