-- ==== Sys2Proof/Machine/KeypadTimers.lean ====
section
/-!
DEFINITION. The keypad tests and the timer accesses (spec/45_keypad_timers.md). `PC` has already been
advanced past the instruction (spec/40_step_cycle.md R58).
-/

namespace Sys2Proof.Machine

/-- `EX9E` (R97): skip if the key numbered `V[X]` is down; KEY_RANGE above 0x0F. -/
def execSkp (x : RegIdx) (s : State) : Host.Outcome State Fault Refusal :=
  match keyNumber (s.reg x) with
  | some k => .next (s.skipIf (s.keyDown k))
  | none => raise .keyRange s

/-- `EXA1` (R98): skip if the key numbered `V[X]` is up; KEY_RANGE above 0x0F. -/
def execSknp (x : RegIdx) (s : State) : Host.Outcome State Fault Refusal :=
  match keyNumber (s.reg x) with
  | some k => .next (s.skipIf (!s.keyDown k))
  | none => raise .keyRange s

/-- `FX07` (R99). -/
def execLdVxDt (x : RegIdx) (s : State) : Host.Outcome State Fault Refusal := .next (s.setReg x s.dt)

/-- `FX15` (R100). -/
def execLdDtVx (x : RegIdx) (s : State) : Host.Outcome State Fault Refusal := .next (s.setDt (s.reg x))

/-- `FX18` (R101). -/
def execLdStVx (x : RegIdx) (s : State) : Host.Outcome State Fault Refusal := .next (s.setSt (s.reg x))

end Sys2Proof.Machine
end

