-- ==== Sys2Proof/Machine/Cycle.lean ====
section
/-!
DEFINITION. STEP with its input byte (spec/40_step_cycle.md R56), and the placing of an opcode word where
the next fetch reads.
-/

namespace Sys2Proof.Machine

/-- Latches the byte `rnd` of this STEP and counts the draw (R62; log 1). -/
def State.latchRnd (s : State) (b : Byte) : State := { s with rnd := b, draws := s.draws + 1 }

/-- STEP (R56): a halted block changes nothing (R104; it draws no byte, log 1). Otherwise fetch; a fetch
fault leaves `PC` and records it; else advance `PC`, decode and execute. -/
def cycle (rnd : Byte) (s : State) : Host.Outcome State Fault Refusal :=
  match s.status with
  | .ok =>
    match fetch s.mem s.pc with
    | some w => exec (decode w) (s.latchRnd rnd).advance
    | none => .next ((s.latchRnd rnd).enterFault .addressRange s.pc)
  | .fault _ => .next s
  | .loadError _ => .next s

/-- Where the next fetch reads: `PC` if a word can be fetched there, else the entry point. -/
def State.fetchable (s : State) : Word := if s.pc.toNat + 1 > 0xFFF then 0x200 else s.pc

/-- A running state whose next fetch reads the word `w` (log 5). -/
def State.placeWord (s : State) (w : Word) : State :=
  { s with
    mem := writeBytes s.mem s.fetchable.toNat [highByte w, lowByte w]
    pc := s.fetchable
    status := .ok }

end Sys2Proof.Machine
end

