-- ==== Sys2Proof/Machine/Step.lean ====
section
/-!
DEFINITION. The machine's step: STEP (spec/40_step_cycle.md R56) with the byte the environment supplies
(R62, R90; log 1).
-/

namespace Sys2Proof.Machine

/-- One STEP, its byte `rnd` a free value (log 1). Other host operations are in Machine/HostPort.lean:
they land between steps (log 4). -/
def step (s : State) : Host.Outcome State Fault Refusal := cycle (Config.rng s.draws) s

/-- `s` with the word whose bits the opcode table numbers as `w` stored where `step` fetches next, and
running (log 5). -/
def State.withFetchWord (s : State) (nbits w : Nat) : State := s.placeWord (tableWord nbits w)

end Sys2Proof.Machine
end

