-- ==== Sys2Proof/Machine/HostPort.lean ====
section
/-!
DEFINITION. The host interface (spec/60_exceptions.md R112): LOAD, STEP, TICK, KEY_SET, FB_READ, ST_READ,
STATUS_READ, each atomic (spec/20_memory.md R36), and schedules of them (R113). The operations land
between STEPs only. Fault codes are R102's numbers.
-/

namespace Sys2Proof.Machine

/-- The numeric code of a status (R102). -/
def Status.code : Status → Nat
  | .ok => 0
  | .fault .stackOverflow => 1
  | .fault .stackUnderflow => 2
  | .fault .addressRange => 3
  | .fault .keyRange => 4
  | .loadError .unreadable => 5
  | .loadError .tooLarge => 6

/-! ### LOAD -/

/-- The memory of a successful LOAD (R118): zeros, the font table, then the image from the entry point. -/
def loadedMemory (g : Config.Glyphs) (image : List Byte) : Memory :=
  writeBytes (writeBytes [] 0 (Config.fontTable g)) Config.entry image

/-- A successful LOAD (R118): every state item at its reset value (R27). The environment's draws go on. -/
def State.loaded (s : State) (g : Config.Glyphs) (image : List Byte) : State :=
  { State.reset with mem := loadedMemory g image, rnd := s.rnd, draws := s.draws }

/-- A failed LOAD (R119): `STATUS` holds the error, every other item a free value (log 3). -/
def State.loadFailed (s : State) (e : LoadError) : State where
  v := Vector.ofFn fun k => Config.failedLoadV s.draws k.val
  i := Config.failedLoadI s.draws
  pc := Config.failedLoadPc s.draws
  stack := Vector.ofFn fun k => Config.failedLoadStack s.draws k.val
  sp := Config.failedLoadSp s.draws
  dt := Config.failedLoadDt s.draws
  st := Config.failedLoadSt s.draws
  mem := memoryOf (Config.failedLoadMem s.draws)
  fb := Vector.ofFn fun y => Config.failedLoadFb s.draws y.val
  key := Config.failedLoadKey s.draws
  status := .loadError e
  faultPc := Config.failedLoadFaultPc s.draws
  rnd := s.rnd
  draws := s.draws + 1

/-- LOAD(image, readable) with the font argument `g` (R118, R7): readability is checked before the
length (R105). A reset is this operation with the remembered image (R120). -/
def State.load (s : State) (g : Config.Glyphs) (image : List Byte) (readable : Bool) : State :=
  if readable = false then s.loadFailed .unreadable
  else if image.length > Config.maxProgram then s.loadFailed .tooLarge
  else s.loaded g image

/-! ### TICK and KEY_SET -/

/-- A countdown timer after one TICK: never below zero (R109). -/
def countDown (b : Byte) : Byte := if b = 0 then b else b - 1

/-- TICK (R109): both timers, nothing else, in any `STATUS` (R104). -/
def State.tick (s : State) : State := { s with dt := countDown s.dt, st := countDown s.st }

/-- KEY_SET(k, down) (R112). -/
def State.keySet (s : State) (k : KeyIdx) (down : Bool) : State :=
  s.setKeys (if down then s.key ||| (1#16 <<< k.val) else s.key &&& ~~~(1#16 <<< k.val))

/-! ### Operations and schedules -/

/-- A host operation with its inputs (R112). -/
inductive HostOp where
  | load (image : List Byte) (readable : Bool)
  | step (rnd : Byte)
  | tick
  | keySet (k : KeyIdx) (down : Bool)
  | fbRead
  | stRead
  | statusRead
deriving DecidableEq, Repr

/-- What an operation returns (R112). -/
inductive Reply where
  /-- TICK and KEY_SET return nothing -/
  | nothing
  /-- LOAD and STEP return STATUS -/
  | status (c : Status)
  /-- FB_READ returns the 2048 bits of FB -/
  | frame (f : Frame)
  /-- ST_READ returns ST -/
  | sound (b : Byte)
  /-- STATUS_READ returns STATUS and FAULT_PC -/
  | report (c : Status) (faultPc : Word)
deriving DecidableEq, Repr

/-- One host operation (R112): the state after it and its reply. -/
def perform (g : Config.Glyphs) (op : HostOp) (s : State) :
    Host.Outcome (State × Reply) Fault Refusal :=
  match op with
  | .load image readable => .next (s.load g image readable, .status (s.load g image readable).status)
  | .step rnd =>
    match cycle rnd s with
    | .next t => .next (t, .status t.status)
    | .fault r => .fault r
    | .refused r => .refused r
  | .tick => .next (s.tick, .nothing)
  | .keySet k down => .next (s.keySet k down, .nothing)
  | .fbRead => .next (s, .frame s.fb)
  | .stRead => .next (s, .sound s.st)
  | .statusRead => .next (s, .report s.status s.faultPc)

/-- A schedule (R113): host operations one after another, each completing before the next. -/
def runSchedule (g : Config.Glyphs) : List HostOp → State → Host.Outcome (State × List Reply) Fault Refusal
  | [], s => .next (s, [])
  | op :: ops, s =>
    match perform g op s with
    | .next (t, r) =>
      match runSchedule g ops t with
      | .next (u, rs) => .next (u, r :: rs)
      | .fault e => .fault e
      | .refused e => .refused e
    | .fault e => .fault e
    | .refused e => .refused e

end Sys2Proof.Machine
end

