-- ==== Sys2Proof/Safety.lean ====
section
/-!
DEFINITION. The terms claims use: faulted, parked and finished states (spec/60_exceptions.md R117), the
machine's invariant, the parts of the state a frame names, and the host's duties (R113).
-/

namespace Sys2Proof.Machine

/-! ### The end of a run (R117) -/

/-- STATUS is 1 to 4 (R117). -/
def State.Faulted (s : State) : Prop := ∃ c, s.status = .fault c

/-- STATUS is OK and the word at `PC` is a jump to itself (R117). -/
def State.Parked (s : State) : Prop :=
  s.status = .ok ∧ ∃ w nnn, fetch s.mem s.pc = some w ∧ decode w = .jp nnn ∧ addressOf nnn = s.pc

/-- The same block: everything but the environment's byte and the draw count, which
are no state of the spec's (R15; log 1). -/
def State.SameBlock (s t : State) : Prop := t = { s with rnd := t.rnd, draws := t.draws }

/-- A schedule without a LOAD: a history of the program that is loaded now (log 20). -/
def NoLoad (ops : List HostOp) : Prop := ∀ image readable, HostOp.load image readable ∉ ops

/-- The program in `s` finishes under the schedule `ops` (R113, R117): some first part of it, which loads no
other program, leads to a parked state. `STATUS` is OK there, and no fault can have come before, since only
a LOAD ends one (R104). -/
def State.Finishes (g : Config.Glyphs) (ops : List HostOp) (s : State) : Prop :=
  ∃ first rest t replies, ops = first ++ rest ∧ NoLoad first ∧
    runSchedule g first s = .next (t, replies) ∧ t.Parked

/-! ### Frames -/

/-- The parts of the state, down to one register, byte, pixel or stack entry. -/
inductive Part where
  | reg (x : RegIdx)
  | index
  | pc
  | stackEntry (k : Fin 12)
  | sp
  | delayTimer
  | soundTimer
  | byte (a : Nat)
  | pixel (p : Nat)
  | keys
  | status
  | faultPc
  | rnd
  | draws
deriving DecidableEq, Repr

/-- A part holds the same in both states. -/
def Part.Same (s t : State) : Part → Prop
  | .reg x => t.reg x = s.reg x
  | .index => t.i = s.i
  | .pc => t.pc = s.pc
  | .stackEntry k => t.stack[k] = s.stack[k]
  | .sp => t.sp = s.sp
  | .delayTimer => t.dt = s.dt
  | .soundTimer => t.st = s.st
  | .byte a => t.mem.read a = s.mem.read a
  | .pixel p => t.pixel p = s.pixel p
  | .keys => t.key = s.key
  | .status => t.status = s.status
  | .faultPc => t.faultPc = s.faultPc
  | .rnd => t.rnd = s.rnd
  | .draws => t.draws = s.draws

/-- Every part not in `changed` holds in `t` what it held in `s`. -/
def OnlyChanges (changed : Part → Prop) (s t : State) : Prop := ∀ p, ¬ changed p → Part.Same s t p

/-- Whether a sprite has a 1 at pixel `p` of the screen (R64, R65): `p` is in one of its `rows` drawn
rows and its 8 columns from the origin (`x0`, `y0`), and the row byte's bit there is 1, bit 7 leftmost. -/
def spriteBit (m : Memory) (base x0 y0 rows p : Nat) : Bool :=
  decide (y0 ≤ p / 64 ∧ p / 64 < y0 + rows ∧ x0 ≤ p % 64 ∧ p % 64 < x0 + 8) &&
    (m.read (base + (p / 64 - y0))).getLsbD (7 - (p % 64 - x0))

/-! ### The invariant -/

/-- What holds of a fault's report (R102, R103): where the faulting word stood, where `PC` is, and what
the call stack held. An execute fault's word was fetched, so it stood at most at 0xFFE. -/
def State.FaultRecorded (s : State) : FaultCode → Prop
  | .stackOverflow => s.pc = s.faultPc + 2 ∧ s.faultPc.toNat ≤ 0xFFE ∧ s.sp = 12
  | .stackUnderflow => s.pc = s.faultPc + 2 ∧ s.faultPc.toNat ≤ 0xFFE ∧ s.sp = 0
  | .keyRange => s.pc = s.faultPc + 2 ∧ s.faultPc.toNat ≤ 0xFFE
  | .addressRange =>
    (s.pc = s.faultPc ∧ 0xFFE < s.faultPc.toNat) ∨ (s.pc = s.faultPc + 2 ∧ s.faultPc.toNat ≤ 0xFFE)

/-- What holds of a block that has not failed a LOAD: `PC` is at most 0x10FE, the farthest target of
`BNNN` (R71), so it never wraps (R58); every return address in use was pushed by a `2NNN` that was
fetched, so it lies between 2 and 0x1000 (R70); a fault is recorded as R103 says. -/
structure State.Sound (s : State) : Prop where
  pcBound : s.pc.toNat ≤ 0x10FE
  returnAddresses : ∀ k : Fin 12, k.val < s.sp.val → 2 ≤ s.stack[k].toNat ∧ s.stack[k].toNat ≤ 0x1000
  report : ∀ c, s.status = .fault c → s.FaultRecorded c

/-- The machine's invariant: memory is in canonical form, and unless the last LOAD failed (every other
item is then unspecified, R119) the block is sound. -/
structure State.Inv (s : State) : Prop where
  memory : s.mem.wf = true
  sound : (∀ e, s.status ≠ .loadError e) → s.Sound

/-! ### The host's duties (R113) -/

/-- Whether a LOAD of this image succeeds (R118). -/
def loadSucceeds (image : List Byte) (readable : Bool) : Bool :=
  readable && decide (image.length ≤ Config.maxProgram)

/-- A schedule in which no STEP follows a failed LOAD before a successful one (R113); `usable` says
whether the last LOAD succeeded. -/
def dutiful : Bool → List HostOp → Bool
  | _, [] => true
  | _, .load image readable :: ops => dutiful (loadSucceeds image readable) ops
  | usable, .step _ :: ops => usable && dutiful usable ops
  | usable, .tick :: ops => dutiful usable ops
  | usable, .keySet _ _ :: ops => dutiful usable ops
  | usable, .fbRead :: ops => dutiful usable ops
  | usable, .stRead :: ops => dutiful usable ops
  | usable, .statusRead :: ops => dutiful usable ops

end Sys2Proof.Machine
end

