-- ==== Sys2Proof/Certificates/Slice0/Obligations.lean ====
section
/-!
DEFINITION. The statements for the provers. A statement about `exec i s` is about the EXECUTE phase
(spec/40_step_cycle.md R60): `s` already holds the instruction's address plus 2 in `PC` (R58).
`StepRunsTheDecodedInstruction` ties it to a STEP.
-/

open Sys2Proof Sys2Proof.Machine

/-! ### Encoding -/

/-- Every well-formed instruction survives encoding and decoding, with every operand at every value
(spec/30_encoding.md R48 to R51). That `5XYN` and `9XYN` with N not 0 stand for the unrecognized word is the
spec's own choice D6 (log 11). -/
def Obligations.DecodeOfEncode : Prop :=
  ∀ i : Instr, i.wf = true → decode (encode i) = i

/-- Every one of the 65536 words decodes to a well-formed instruction (R53: the decoder is total), and that
instruction's word is the word itself, so that the decoder drops no bit (R48, R50 to R52). For `5XYN` and
`9XYN` with N not 0 both hold by the spec's own choice D6 (log 11). -/
def Obligations.EncodeOfDecode : Prop :=
  ∀ w : Word, (decode w).wf = true ∧ encode (decode w) = w

/-- The decoder follows spec/opcode_table.json: a word with the fixed bits of a row decodes to an
instruction of that row, and a word that fits no row is the unrecognized word (R50, R51). The rows 5XY0 and
9XY0 fix N = 0 by the spec's own choice D6 (log 11). -/
def Obligations.DecodeFollowsOpcodeTable : Prop :=
  ∀ w : Word,
    (∀ r ∈ opcodeRows, r.fits w → (decode w).row = r) ∧
    ((∀ r ∈ opcodeRows, ¬ r.fits w) → decode w = .unrecognized w)

/-- The unrecognized words are exactly those R52 lists, by the word's number `n`: major nibble
`n / 0x1000`, low nibble `n % 0x10`, low byte `n % 0x100`. The two lines for 5XYN and 9XYN are the spec's own
choice D6 (log 11). -/
def Obligations.UnrecognizedWordsAreListed : Prop :=
  ∀ w : Word, decode w = .unrecognized w ↔
    (w.toNat ≤ 0x0FFF ∧ w ≠ 0x00E0 ∧ w ≠ 0x00EE) ∨
    (w.toNat / 0x1000 = 0x5 ∧ w.toNat % 0x10 ≠ 0) ∨
    (w.toNat / 0x1000 = 0x8 ∧ w.toNat % 0x10 ∈ [0x8, 0x9, 0xA, 0xB, 0xC, 0xD, 0xF]) ∨
    (w.toNat / 0x1000 = 0x9 ∧ w.toNat % 0x10 ≠ 0) ∨
    (w.toNat / 0x1000 = 0xE ∧ w.toNat % 0x100 ∉ [0x9E, 0xA1]) ∨
    (w.toNat / 0x1000 = 0xF ∧
      w.toNat % 0x100 ∉ [0x07, 0x15, 0x18, 0x1E, 0x29, 0x33, 0x55, 0x65])

/-- Words written out from the spec's encodings decode to the instructions they stand for (R51), and a list
of bytes is read big-endian, two bytes at a time (R33, R54). That 0xF00A is an unrecognized word is R52,
with the spec's own choice D6 (log 11). -/
def Obligations.WrittenWordsDecode : Prop :=
  decode 0x00E0 = .cls ∧ decode 0x2300 = .call 0x300 ∧ decode 0x3342 = .seImm 3 0x42 ∧
  decode 0x8126 = .shrReg 1 2 ∧ decode 0x812E = .shlReg 1 2 ∧ decode 0xA2F0 = .ldI 0x2F0 ∧
  decode 0xD12A = .drw 1 2 0xA ∧ decode 0xE1A1 = .sknp 1 ∧ decode 0xF155 = .storeRegs 1 ∧
  decode 0xF00A = .unrecognized 0xF00A ∧
  decodeBytes [0x6A, 0x3C, 0x77] = .ok (.ldImm 0xA 0x3C, [0x77])

/-! ### The step -/

/-- FETCH reads the bytes at `PC` and `PC + 1`, the first as the high byte, for any `PC` up to 0xFFE, even
or odd; above that it reads nothing (R32, R33, R34). That no address wraps and that the access fails is the
spec's own choice D2, that an odd `PC` is fetched D4 (log 9). -/
def Obligations.FetchReadsBigEndian : Prop :=
  ∀ (m : Memory) (pc : Word),
    (pc.toNat ≤ 0xFFE → ∃ w, fetch m pc = some w ∧
      w.toNat = (m.read pc.toNat).toNat * 256 + (m.read (pc.toNat + 1)).toNat) ∧
    (0xFFE < pc.toNat → fetch m pc = none)

/-- A STEP of a running block whose next two bytes decode to `i` is EXECUTE of `i` after `PC` has moved
past the two bytes and the environment's byte has been latched (R56, R57, R58, R60, R62). The two fields
`rnd` and `draws` are the model's own (log 1). -/
def Obligations.StepRunsTheDecodedInstruction : Prop :=
  ∀ (s : State) (i : Instr),
    s.status = .ok → s.pc.toNat ≤ 0xFFE →
    decodeBytes [s.mem.read s.pc.toNat, s.mem.read (s.pc.toNat + 1)] = .ok (i, []) →
    step s = exec i { s with pc := s.pc + 2, rnd := Config.rng s.draws, draws := s.draws + 1 } ∧
    ∀ b, cycle b s = exec i { s with pc := s.pc + 2, rnd := b, draws := s.draws + 1 }

/-- A fetch above 0xFFE takes the fault ADDRESS_RANGE: FAULT_PC and PC hold the address that could not be
fetched, and nothing else of the block changes (R57, R103). The fault is the spec's own choice D2, its report
D12 and D13 (logs 9 and 15). -/
def Obligations.FetchFaultIsTaken : Prop :=
  ∀ s : State, s.status = .ok → 0xFFE < s.pc.toNat →
    ∃ t, step s = .next t ∧ t.status = .fault .addressRange ∧ t.faultPc = s.pc ∧
      OnlyChanges (fun p => p = .status ∨ p = .faultPc ∨ p = .rnd ∨ p = .draws) s t

/-- Every step of every state answers a next state, and so does every instruction: no word is illegal (R53),
and nothing is refused. That a step which faults answers a next state too is the model's reading of R103 and
R104: a fault is taken, not an outcome that ends the run (log 6). -/
def Obligations.EveryStepAnswersNext : Prop :=
  (∀ s : State, ∃ t, step s = .next t) ∧ ∀ (i : Instr) (s : State), ∃ t, exec i s = .next t

/-- While STATUS is not OK a STEP changes nothing, for any number of STEPs, and no schedule without a LOAD
changes STATUS or FAULT_PC (R104). That the other operations go on is the spec's own choice D14, D33 (log
15); that a STEP after a failed LOAD changes nothing is D18 (log 16); that it draws no byte is the model's
(log 1). -/
def Obligations.HaltedIsFinalWithoutLoad : Prop :=
  ∀ s : State, s.status ≠ .ok →
    (∀ n, Sys2Proof.core.run n s = .next s) ∧
    ∀ (g : Config.Glyphs) (ops : List HostOp), NoLoad ops →
      ∃ t replies, runSchedule g ops s = .next (t, replies) ∧ t.status = s.status ∧ t.faultPc = s.faultPc

/-- Faults are precise: when a STEP of a running block ends with STATUS not OK, STATUS is a fault code,
FAULT_PC is the address of the word, PC is that address for a fetch fault and that address plus 2 for an
execute fault, and nothing else of the block has changed (R103). D12 and D13 are the spec's own choices (log
15), and so is D9, by which a faulting `DXYN`, `FX33`, `FX55` or `FX65` has written nothing (log 9). The
draw fields are the model's own (log 1). -/
def Obligations.FaultsArePrecise : Prop :=
  ∀ s t : State, s.status = .ok → step s = .next t → t.status ≠ .ok →
    ∃ c, t =
      { s with
        status := .fault c
        faultPc := s.pc
        pc := if s.pc.toNat ≤ 0xFFE then s.pc + 2 else s.pc
        rnd := t.rnd
        draws := t.draws }

/-- The causes of R102's table, and no other: which instruction raises which fault, and when; the condition
of `DXYN` is that of R64. ADDRESS_RANGE and KEY_RANGE are the spec's own choices D2 and D11 (logs 9 and 14),
and so are D10, by which a clipped sprite row raises nothing (log 13), D29, by which SP counts the entries
held (log 17), and the report in STATUS, D12 (log 15). -/
def Obligations.FaultsHaveTheListedCauses : Prop :=
  ∀ (i : Instr) (s t : State) (c : FaultCode), s.status = .ok → exec i s = .next t →
    (t.status = .fault c ↔
      match c with
      | .stackOverflow => (∃ nnn, i = .call nnn) ∧ s.sp = 12
      | .stackUnderflow => i = .ret ∧ s.sp = 0
      | .keyRange => ∃ x, (i = .skp x ∨ i = .sknp x) ∧ (s.reg x).toNat > 0x0F
      | .addressRange =>
        (∃ x y n r, i = .drw x y n ∧ r < n.val ∧ (s.reg y).toNat % 32 + r ≤ 31 ∧ s.i.toNat + r > 0xFFF) ∨
        (∃ x, i = .ldB x ∧ s.i.toNat + 2 > 0xFFF) ∨
        (∃ x, (i = .storeRegs x ∨ i = .loadRegs x) ∧ s.i.toNat + x.val > 0xFFF))

/-! ### Reset and the invariant -/

/-- The power-on state item by item (R27, R121): the font's glyph 0 at 0x000, zeros from 0x050 on, every
register 0, PC = 0x200, STATUS = OK. That power-on equals the load of the empty image is the spec's own
choice D16, the zeros of memory and of the stack's entries D15 (log 16), STATUS and FAULT_PC D12 (log 15),
SP as a count D29 (log 17); the model's own fields are left out (log 1). -/
def Obligations.ResetLeavesTheListedValues : Prop :=
  (∀ x, State.reset.reg x = 0) ∧ State.reset.i = 0 ∧ State.reset.pc = 0x200 ∧ State.reset.sp = 0 ∧
  (∀ k : Fin 12, State.reset.stack[k] = 0) ∧ State.reset.dt = 0 ∧ State.reset.st = 0 ∧
  (∀ p, State.reset.pixel p = false) ∧ (∀ k, State.reset.keyDown k = false) ∧
  State.reset.status = .ok ∧ State.reset.faultPc = 0 ∧
  (List.range 5).map State.reset.mem.read = [0xF0, 0x90, 0x90, 0x90, 0xF0] ∧
  ∀ a, 0x050 ≤ a → State.reset.mem.read a = 0

/-- The power-on state meets the machine's invariant. The canonical form of memory in it is the model's own
(log 8). -/
def Obligations.ResetMeetsTheInvariant : Prop := State.reset.Inv

/-- Every step keeps the machine's invariant, from every state that meets it: memory stays canonical (the
model's own form, log 8), `PC` stays at most 0x10FE and so never wraps (R58, R71), the return addresses in
use stay those a fetched `2NNN` can have pushed (R70), and a fault stays recorded as R103 says. D2 and D36
(log 9), D12 and D13 (log 15) and D29 (log 17) are the spec's own choices. -/
def Obligations.StepKeepsTheInvariant : Prop :=
  ∀ s t : State, s.Inv → step s = .next t → t.Inv

/-- Every schedule of host operations completes and keeps the machine's invariant, failed LOADs included
(R112, R113, R119): the block is ready for any history. The canonical form in the invariant is the model's
own (log 8); the interface is the spec's own choice D1 (log 18), the state after a failed LOAD D18 (log 16).
-/
def Obligations.EveryScheduleKeepsTheInvariant : Prop :=
  ∀ (g : Config.Glyphs) (ops : List HostOp) (s : State), s.Inv →
    ∃ t replies, runSchedule g ops s = .next (t, replies) ∧ t.Inv ∧ replies.length = ops.length

/-- If the host keeps its duties (R113, the spec's own choice D28, log 4), every STEP of a schedule finds a
block whose last LOAD did not fail, so no unspecified value reaches an instruction. -/
def Obligations.DutifulStepsFindALoadedBlock : Prop :=
  ∀ (g : Config.Glyphs) (before after : List HostOp) (b : Byte) (s t : State) (replies : List Reply),
    (∀ e, s.status ≠ .loadError e) → dutiful true (before ++ .step b :: after) = true →
    runSchedule g before s = .next (t, replies) → ∀ e, t.status ≠ .loadError e

/-! ### Whole-machine rules -/

/-- Who writes what (R16 to R24, R35): the registers but `VF` (whose writers VfHasItsWriters lists), `I`,
the timers, the stack, memory, the framebuffer, STATUS and FAULT_PC and a further change of `PC` belong to
the instructions listed; KEY and the environment's byte to none. That `FX55` and `FX65` leave `I` alone is
the spec's own choice D8 (log 12), and so are D2 and D11, by which the memory and key instructions can fault
(logs 9 and 14), and the report in STATUS and FAULT_PC, D12 (log 15). -/
def Obligations.EachPartHasItsWriters : Prop :=
  ∀ (i : Instr) (s t : State), exec i s = .next t →
    (∀ x, x ≠ vf → t.reg x ≠ s.reg x →
      (∃ nn, i = .ldImm x nn ∨ i = .addImm x nn ∨ i = .rnd x nn) ∨
      (∃ y, i = .ldReg x y ∨ i = .orReg x y ∨ i = .andReg x y ∨ i = .xorReg x y) ∨
      (∃ y, i = .addReg x y ∨ i = .subReg x y ∨ i = .subnReg x y ∨ i = .shrReg x y ∨ i = .shlReg x y) ∨
      i = .ldVxDt x ∨ ∃ last, x.val ≤ last.val ∧ i = .loadRegs last) ∧
    (t.i ≠ s.i → (∃ nnn, i = .ldI nnn) ∨ (∃ x, i = .addI x) ∨ ∃ x, i = .ldF x) ∧
    (t.dt ≠ s.dt → ∃ x, i = .ldDtVx x) ∧
    (t.st ≠ s.st → ∃ x, i = .ldStVx x) ∧
    (t.stack ≠ s.stack → ∃ nnn, i = .call nnn) ∧
    (t.sp ≠ s.sp → i = .ret ∨ ∃ nnn, i = .call nnn) ∧
    (t.mem ≠ s.mem → (∃ x, i = .ldB x) ∨ ∃ x, i = .storeRegs x) ∧
    (t.fb ≠ s.fb → i = .cls ∨ ∃ x y n, i = .drw x y n) ∧
    (t.pc ≠ s.pc → i = .ret ∨ (∃ nnn, i = .jp nnn ∨ i = .call nnn ∨ i = .jpV0 nnn) ∨
      (∃ x nn, i = .seImm x nn ∨ i = .sneImm x nn) ∨ (∃ x y, i = .seReg x y ∨ i = .sneReg x y) ∨
      ∃ x, i = .skp x ∨ i = .sknp x) ∧
    (t.status ≠ s.status ∨ t.faultPc ≠ s.faultPc → i = .ret ∨ (∃ nnn, i = .call nnn) ∨
      (∃ x y n, i = .drw x y n) ∨ (∃ x, i = .ldB x ∨ i = .storeRegs x ∨ i = .loadRegs x) ∨
      ∃ x, i = .skp x ∨ i = .sknp x) ∧
    t.key = s.key ∧ t.rnd = s.rnd ∧ t.draws = s.draws

/-- Who writes `VF` (R17): the flag-writing instructions, and those whose destination `X` is 0xF. That the
logic instructions and `FX1E` do not is the spec's own choice D7, D35 (log 12). -/
def Obligations.VfHasItsWriters : Prop :=
  ∀ (i : Instr) (s t : State), exec i s = .next t → t.reg vf ≠ s.reg vf →
    (∃ x y, i = .addReg x y ∨ i = .subReg x y ∨ i = .subnReg x y ∨ i = .shrReg x y ∨ i = .shlReg x y) ∨
    (∃ x y n, i = .drw x y n) ∨
    (∃ nn, i = .ldImm vf nn ∨ i = .addImm vf nn ∨ i = .rnd vf nn) ∨
    (∃ y, i = .ldReg vf y ∨ i = .orReg vf y ∨ i = .andReg vf y ∨ i = .xorReg vf y) ∨
    i = .ldVxDt vf ∨ i = .loadRegs vf

/-- Who reads what comes from outside and the timers: the keypad only `EX9E` and `EXA1` (R22,
spec/90_conflicts.md C4), the environment's byte only `CXNN` (R56), the sound timer no instruction, the delay
timer only `FX07` (R21). An instruction that does not read one of them does the same whatever it holds. -/
def Obligations.InputsAndTimersHaveTheirReaders : Prop :=
  ∀ (i : Instr) (s t : State), exec i s = .next t →
    ((∀ x, i ≠ .skp x ∧ i ≠ .sknp x) → ∀ k, exec i { s with key := k } = .next { t with key := k }) ∧
    ((∀ x nn, i ≠ .rnd x nn) → ∀ b, exec i { s with rnd := b } = .next { t with rnd := b }) ∧
    ((∀ x, i ≠ .ldStVx x) → ∀ b, exec i { s with st := b } = .next { t with st := b }) ∧
    (∀ x b, i = .ldStVx x → exec i { s with st := b } = .next t) ∧
    ((∀ x, i ≠ .ldVxDt x ∧ i ≠ .ldDtVx x) → ∀ b, exec i { s with dt := b } = .next { t with dt := b }) ∧
    (∀ x b, i = .ldDtVx x → exec i { s with dt := b } = .next t)

/-! ### Memory -/

/-- A read after a write: the written address holds the byte, every other address what it held (R30, R31).
That a read or a write above 0xFFF answers none, as the access that raises ADDRESS_RANGE, is the spec's own
choice D2 (log 9). That a write to a valid address keeps the canonical form, also the write that removes a
cell, is the model's own (log 8, DESIGN CHOICE). -/
def Obligations.WriteChangesThatByteOnly : Prop :=
  ∀ (m : Memory) (a : Nat) (w : Byte),
    (a ≤ 0xFFF → ∃ m', memWrite m a w = some m' ∧ memRead m' a = some w ∧
      (∀ b, b ≠ a → memRead m' b = memRead m b) ∧ (m.wf = true → m'.wf = true)) ∧
    (0xFFF < a → memWrite m a w = none ∧ memRead m a = none)

/-- Canonical memories that hold the same byte at every address are the same data (the model's own form
of memory, log 8). -/
def Obligations.EqualMemoriesAreEqualData : Prop :=
  ∀ m m' : Memory, m.wf = true → m'.wf = true → (∀ a ≤ 0xFFF, m.read a = m'.read a) → m = m'

/-- A word stored by `FX55` is the word a fetch of that address reads next, at an even or odd address: no
fence is needed. That a store is seen by the next fetch is R44's inference and the spec's own choice D22
(log 18); the range check is D2, D9, the odd address D4 (log 9). For `FX33`, the digits it stores
(LdBStoresTheDecimalDigits) are read by a fetch as FetchReadsBigEndian says. -/
def Obligations.StoredWordIsFetched : Prop :=
  ∀ (s : State) (x k k' : RegIdx) (pc : Word),
    s.i.toNat + x.val ≤ 0xFFF → k'.val = k.val + 1 → k'.val ≤ x.val → pc.toNat = s.i.toNat + k.val →
    ∃ t, exec (.storeRegs x) s = .next t ∧ fetch t.mem pc = some (wordOfBytes (s.reg k) (s.reg k'))

/-! ### Display -/

/-- `00E0` (R63): every pixel off, nothing else touched. -/
def Obligations.ClsClearsTheFramebuffer : Prop :=
  ∀ s : State, ∃ t, exec .cls s = .next t ∧ (∀ p < 2048, t.pixel p = false) ∧
    OnlyChanges (fun p => ∃ n, p = .pixel n) s t

/-- `DXYN` (R64, R65), wherever the drawn rows' addresses are valid: each pixel is XORed with the sprite's
bit there, the sprite standing at (V[X] mod 64, V[Y] mod 32) and clipped at the edges; `VF` is 1 exactly if
a set pixel was turned off; nothing else changes. N = 0 and the clipped rows (D10), the latched coordinates
(D5) and the range check (D2, D9) are the spec's own choices (logs 13, 10 and 9). -/
def Obligations.DrwXorsTheSprite : Prop :=
  ∀ (s : State) (x y : RegIdx) (n : Fin 16),
    (∀ r < n.val, (s.reg y).toNat % 32 + r ≤ 31 → s.i.toNat + r ≤ 0xFFF) →
    ∃ t, exec (.drw x y n) s = .next t ∧
      (∀ px < 64, ∀ py < 32, t.pixel (py * 64 + px) =
        (s.pixel (py * 64 + px) ^^
          (decide ((s.reg y).toNat % 32 ≤ py ∧ py < (s.reg y).toNat % 32 + n.val ∧
            (s.reg x).toNat % 64 ≤ px ∧ px < (s.reg x).toNat % 64 + 8) &&
          (s.mem.read (s.i.toNat + (py - (s.reg y).toNat % 32))).getLsbD
            (7 - (px - (s.reg x).toNat % 64))))) ∧
      (t.reg vf = 1 ∨ t.reg vf = 0) ∧
      (t.reg vf = 1 ↔ ∃ p < 2048, s.pixel p = true ∧ t.pixel p = false) ∧
      OnlyChanges (fun p => p = .reg vf ∨ ∃ n, p = .pixel n) s t

/-- Where a drawn row's address is above 0xFFF, `DXYN` takes ADDRESS_RANGE having written no pixel and no
register (R37, R64). D2 and D9 (log 9), D10 (log 13), D12 and D13 (log 15) are the spec's own choices. -/
def Obligations.DrwOutOfRangeFaults : Prop :=
  ∀ (s : State) (x y : RegIdx) (n : Fin 16) (r : Nat),
    r < n.val → (s.reg y).toNat % 32 + r ≤ 31 → 0xFFF < s.i.toNat + r →
    ∃ t, exec (.drw x y n) s = .next t ∧ t.status = .fault .addressRange ∧ t.faultPc = s.pc - 2 ∧
      OnlyChanges (fun p => p = .status ∨ p = .faultPc) s t

/-- Drawing the same sprite twice at the same place restores the framebuffer, and the second draw's `VF` is
1 exactly when some bit of the sprite fell on a pixel that was off before the first (R64). `X` and `Y` are
not 0xF, since the first draw would move such a sprite. N = 0 and the clipped rows (D10) and the range check
(D2, D9) are the spec's own choices (logs 13 and 9). -/
def Obligations.DrwTwiceRestoresTheFramebuffer : Prop :=
  ∀ (s : State) (x y : RegIdx) (n : Fin 16), x ≠ vf → y ≠ vf →
    (∀ r < n.val, (s.reg y).toNat % 32 + r ≤ 31 → s.i.toNat + r ≤ 0xFFF) →
    ∃ t u, exec (.drw x y n) s = .next t ∧ exec (.drw x y n) t = .next u ∧ u.fb = s.fb ∧
      (u.reg vf = 1 ↔ ∃ p < 2048, s.pixel p = false ∧ t.pixel p = true)

/-! ### Control flow and the call stack -/

/-- PUSH, through `2NNN` (R66): below 12 entries the value goes to `STACK[SP]` and SP is one more; at 12
STACK_OVERFLOW is raised and neither STACK nor SP changes. SP as the count of entries, written at STACK[SP]
before it counts up, is the spec's own choice D29 (log 17), the report in STATUS D12 (log 15). -/
def Obligations.PushChecksTheBound : Prop :=
  ∀ (s : State) (w : Word),
    (∀ h : s.sp.val < 12, ∃ t, s.push w = some t ∧ t.stack[s.sp.val] = w ∧ t.sp.val = s.sp.val + 1 ∧
      OnlyChanges (fun p => p = .stackEntry ⟨s.sp.val, h⟩ ∨ p = .sp) s t) ∧
    (s.sp = 12 → s.push w = none ∧ ∀ nnn, ∃ t, exec (.call nnn) s = .next t ∧
      t.status = .fault .stackOverflow ∧ t.stack = s.stack ∧ t.sp = s.sp)

/-- POP, through `00EE` (R67): with entries held, SP is one less and the entry there is returned and not
cleared; at 0 STACK_UNDERFLOW is raised and neither STACK nor SP changes. SP as the count of entries, the
top one at STACK[SP - 1], is the spec's own choice D29 (log 17), the report in STATUS D12 (log 15). -/
def Obligations.PopChecksTheBound : Prop :=
  ∀ s : State,
    (∀ h : 0 < s.sp.val, ∃ t, s.pop = some (s.stack[s.sp.val - 1]'(by omega), t) ∧
      t.sp.val = s.sp.val - 1 ∧ OnlyChanges (fun p => p = .sp) s t) ∧
    (s.sp = 0 → s.pop = none ∧ ∃ t, exec .ret s = .next t ∧
      t.status = .fault .stackUnderflow ∧ t.stack = s.stack ∧ t.sp = s.sp)

/-- `1NNN` (R69): `PC` becomes the 12-bit address, odd or even. -/
def Obligations.JpSetsPc : Prop :=
  ∀ (s : State) (nnn : Addr), ∃ t, exec (.jp nnn) s = .next t ∧ t.pc.toNat = nnn.toNat ∧
    OnlyChanges (fun p => p = .pc) s t

/-- `BNNN` (R71): `PC` becomes `NNN + V[0]`, never reduced to 12 bits (the spec's own choice D36, log 9). -/
def Obligations.JpV0AddsV0 : Prop :=
  ∀ (s : State) (nnn : Addr), ∃ t, exec (.jpV0 nnn) s = .next t ∧
    t.pc.toNat = nnn.toNat + (s.reg 0).toNat ∧ OnlyChanges (fun p => p = .pc) s t

/-- `2NNN` with fewer than 12 entries held (R70, PUSH of R66): the address of the next instruction is pushed
and `PC` becomes the 12-bit address. That the entry is STACK[SP] and SP counts up is the spec's own choice
D29 (log 17). -/
def Obligations.CallPushesTheReturnAddress : Prop :=
  ∀ (s : State) (nnn : Addr) (h : s.sp.val < 12), ∃ t, exec (.call nnn) s = .next t ∧
    t.stack[s.sp.val] = s.pc ∧ t.sp.val = s.sp.val + 1 ∧ t.pc.toNat = nnn.toNat ∧
    OnlyChanges (fun p => p = .pc ∨ p = .sp ∨ p = .stackEntry ⟨s.sp.val, h⟩) s t

/-- `00EE` with an entry held (R68, POP of R67): `PC` becomes the popped value as it is. That the entry is
STACK[SP - 1] and SP counts down is the spec's own choice D29 (log 17). -/
def Obligations.RetPopsTheReturnAddress : Prop :=
  ∀ (s : State) (h : 0 < s.sp.val), ∃ t, exec .ret s = .next t ∧
    t.pc = s.stack[s.sp.val - 1]'(by omega) ∧ t.sp.val = s.sp.val - 1 ∧
    OnlyChanges (fun p => p = .pc ∨ p = .sp) s t

/-- `2NNN` with 12 entries held, and `00EE` with none, take their faults: STATUS and FAULT_PC are written,
`PC` stays at the instruction's address plus 2 (R68, R70, R102). The report is the spec's own choice D12,
D13 (log 15), SP as the count of entries D29 (log 17). -/
def Obligations.StackFaultsAreTaken : Prop :=
  (∀ (s : State) (nnn : Addr), s.sp = 12 → ∃ t, exec (.call nnn) s = .next t ∧
    t.status = .fault .stackOverflow ∧ t.faultPc = s.pc - 2 ∧
    OnlyChanges (fun p => p = .status ∨ p = .faultPc) s t) ∧
  (∀ s : State, s.sp = 0 → ∃ t, exec .ret s = .next t ∧
    t.status = .fault .stackUnderflow ∧ t.faultPc = s.pc - 2 ∧
    OnlyChanges (fun p => p = .status ∨ p = .faultPc) s t)

/-- A `2NNN` and its matching `00EE` leave `PC` at the instruction after the call, whatever happens to `PC`
and the registers between them, and SP where it was (R70). SP as the count of entries is the spec's own
choice D29 (log 17). -/
def Obligations.CallThenRetReturns : Prop :=
  ∀ (s : State) (nnn : Addr), s.sp.val < 12 →
    ∃ t, exec (.call nnn) s = .next t ∧
      ∀ u : State, u.stack = t.stack → u.sp = t.sp →
        ∃ v, exec .ret u = .next v ∧ v.pc = s.pc ∧ v.sp = s.sp

/-- The skips (R72 to R75): `PC` moves a further 2 exactly when the comparison holds, and nothing else
changes. -/
def Obligations.SkipsCompareAndSkip : Prop :=
  ∀ (s : State) (x y : RegIdx) (nn : Byte),
    (∃ t, exec (.seImm x nn) s = .next t ∧ t.pc = (if s.reg x = nn then s.pc + 2 else s.pc) ∧
      OnlyChanges (fun p => p = .pc) s t) ∧
    (∃ t, exec (.sneImm x nn) s = .next t ∧ t.pc = (if s.reg x ≠ nn then s.pc + 2 else s.pc) ∧
      OnlyChanges (fun p => p = .pc) s t) ∧
    (∃ t, exec (.seReg x y) s = .next t ∧ t.pc = (if s.reg x = s.reg y then s.pc + 2 else s.pc) ∧
      OnlyChanges (fun p => p = .pc) s t) ∧
    (∃ t, exec (.sneReg x y) s = .next t ∧ t.pc = (if s.reg x ≠ s.reg y then s.pc + 2 else s.pc) ∧
      OnlyChanges (fun p => p = .pc) s t)

/-- The unrecognized word (R52, R60): a STEP that fetches one changes only `PC`, by 2, besides the model's
own draw fields (log 1). That `5XYN` and `9XYN` with N not 0 are such words is D6 (log 11). -/
def Obligations.UnrecognizedWordOnlyAdvancesPc : Prop :=
  (∀ (s : State) (w : Word), ∃ t, exec (.unrecognized w) s = .next t ∧ OnlyChanges (fun _ => False) s t) ∧
  ∀ (s : State) (w : Word), s.status = .ok → fetch s.mem s.pc = some w → decode w = .unrecognized w →
    ∃ t, step s = .next t ∧ t.pc.toNat = s.pc.toNat + 2 ∧
      OnlyChanges (fun p => p = .pc ∨ p = .rnd ∨ p = .draws) s t

/-- A parked state (R117) stays parked: every later STEP leaves the block as it is, besides the model's own
draw fields (log 1); and under any schedule without a LOAD only the timers and the keypad can change. So a
program that finishes under such a schedule is parked when the schedule ends. Parked and finished are the
spec's own choice D34, that a history of one program holds no LOAD is the model's (log 20). -/
def Obligations.ParkedStaysParked : Prop :=
  (∀ s : State, s.Parked → ∀ n, ∃ t, Sys2Proof.core.run n s = .next t ∧ s.SameBlock t ∧ t.Parked) ∧
  ∀ (g : Config.Glyphs) (ops : List HostOp) (s : State), NoLoad ops →
    (s.Parked → ∃ t replies, runSchedule g ops s = .next (t, replies) ∧ t.Parked ∧
      OnlyChanges
        (fun p => p = .delayTimer ∨ p = .soundTimer ∨ p = .keys ∨ p = .rnd ∨ p = .draws) s t) ∧
    (s.Finishes g ops → ∃ t replies, runSchedule g ops s = .next (t, replies) ∧ t.Parked)

/-! ### Registers and ALU -/

/-- `6XNN` and `8XY0` (R78, R80): the destination receives the literal, or the other register's value. -/
def Obligations.LoadsCopyTheirSource : Prop :=
  ∀ (s : State) (x y : RegIdx) (nn : Byte),
    (∃ t, exec (.ldImm x nn) s = .next t ∧ t.reg x = nn ∧ OnlyChanges (fun p => p = .reg x) s t) ∧
    (∃ t, exec (.ldReg x y) s = .next t ∧ t.reg x = s.reg y ∧ OnlyChanges (fun p => p = .reg x) s t)

/-- `7XNN` (R79): the sum modulo 256 and no carry: `VF` changes only as the destination. A `6XNN` then a
`7XNN` leave (NN1 + NN2) mod 256. -/
def Obligations.AddImmWraps : Prop :=
  ∀ (s : State) (x : RegIdx) (nn : Byte),
    (∃ t, exec (.addImm x nn) s = .next t ∧ (t.reg x).toNat = ((s.reg x).toNat + nn.toNat) % 256 ∧
      OnlyChanges (fun p => p = .reg x) s t) ∧
    ∀ nn', ∃ t u, exec (.ldImm x nn) s = .next t ∧ exec (.addImm x nn') t = .next u ∧
      (u.reg x).toNat = (nn.toNat + nn'.toNat) % 256

/-- `8XY1`, `8XY2`, `8XY3` (R81, R82, R83): bit by bit, and `VF` is not reset (the spec's own choice D7,
log 12). -/
def Obligations.LogicIsBitwise : Prop :=
  ∀ (s : State) (x y : RegIdx),
    (∃ t, exec (.orReg x y) s = .next t ∧
      (∀ k < 8, (t.reg x).getLsbD k = ((s.reg x).getLsbD k || (s.reg y).getLsbD k)) ∧
      OnlyChanges (fun p => p = .reg x) s t) ∧
    (∃ t, exec (.andReg x y) s = .next t ∧
      (∀ k < 8, (t.reg x).getLsbD k = ((s.reg x).getLsbD k && (s.reg y).getLsbD k)) ∧
      OnlyChanges (fun p => p = .reg x) s t) ∧
    (∃ t, exec (.xorReg x y) s = .next t ∧
      (∀ k < 8, (t.reg x).getLsbD k = ((s.reg x).getLsbD k ^^ (s.reg y).getLsbD k)) ∧
      OnlyChanges (fun p => p = .reg x) s t)

/-- `8XY4` (R84): the sum modulo 256 to `V[X]`, then the carry to `VF`, so that for X = 0xF the carry is what
remains (the spec's own choice D5, log 10). -/
def Obligations.AddRegCarries : Prop :=
  ∀ (s : State) (x y : RegIdx), ∃ t, exec (.addReg x y) s = .next t ∧
    (x ≠ vf → (t.reg x).toNat = ((s.reg x).toNat + (s.reg y).toNat) % 256) ∧
    t.reg vf = (if (s.reg x).toNat + (s.reg y).toNat > 255 then 1 else 0) ∧
    OnlyChanges (fun p => p = .reg x ∨ p = .reg vf) s t

/-- `8XY5` and `8XY7` (R85, R86): the difference modulo 256 to `V[X]`, then 1 to `VF` when there is no
borrow, equality included; for X = 0xF the flag is what remains (the spec's own choice D5, log 10). -/
def Obligations.SubtractionsBorrow : Prop :=
  ∀ (s : State) (x y : RegIdx),
    (∃ t, exec (.subReg x y) s = .next t ∧
      (x ≠ vf → (t.reg x).toNat = ((s.reg x).toNat + 256 - (s.reg y).toNat) % 256) ∧
      t.reg vf = (if (s.reg x).toNat ≥ (s.reg y).toNat then 1 else 0) ∧
      OnlyChanges (fun p => p = .reg x ∨ p = .reg vf) s t) ∧
    (∃ t, exec (.subnReg x y) s = .next t ∧
      (x ≠ vf → (t.reg x).toNat = ((s.reg y).toNat + 256 - (s.reg x).toNat) % 256) ∧
      t.reg vf = (if (s.reg y).toNat ≥ (s.reg x).toNat then 1 else 0) ∧
      OnlyChanges (fun p => p = .reg x ∨ p = .reg vf) s t)

/-- `8XY6` and `8XYE` (R87, R88, R89): the source is `VY` whatever `V[X]` held; the bit shifted out goes to
`VF`, then the result to `V[X]`, so that for X = 0xF the result is what remains, and for Y = 0xF the source
is the old `VF` (the spec's own choice D5, log 10). -/
def Obligations.ShiftsTakeTheirSourceFromVy : Prop :=
  ∀ (s : State) (x y : RegIdx),
    (∃ t, exec (.shrReg x y) s = .next t ∧ (t.reg x).toNat = (s.reg y).toNat / 2 ∧
      (x ≠ vf → (t.reg vf).toNat = (s.reg y).toNat % 2) ∧
      OnlyChanges (fun p => p = .reg x ∨ p = .reg vf) s t) ∧
    (∃ t, exec (.shlReg x y) s = .next t ∧ (t.reg x).toNat = (s.reg y).toNat * 2 % 256 ∧
      (x ≠ vf → (t.reg vf).toNat = (s.reg y).toNat / 128) ∧
      OnlyChanges (fun p => p = .reg x ∨ p = .reg vf) s t)

/-- `CXNN` (R90): the byte supplied to this STEP, whatever it is, masked by `NN`. That the byte is
unconstrained is the spec's parameter RNG (D24, log 1). -/
def Obligations.RndMasksTheSuppliedByte : Prop :=
  ∀ (s : State) (x : RegIdx) (nn : Byte), ∃ t, exec (.rnd x nn) s = .next t ∧
    (∀ k < 8, (t.reg x).getLsbD k = (s.rnd.getLsbD k && nn.getLsbD k)) ∧
    OnlyChanges (fun p => p = .reg x) s t

/-! ### Index register and memory transfers -/

/-- `ANNN` (R91): `I` becomes the 12-bit address. -/
def Obligations.LdISetsI : Prop :=
  ∀ (s : State) (nnn : Addr), ∃ t, exec (.ldI nnn) s = .next t ∧ t.i.toNat = nnn.toNat ∧
    OnlyChanges (fun p => p = .index) s t

/-- `FX1E` (R92): `I + V[X]` modulo 2^16, not reduced to 12 bits; `VF` is not written (the spec's own choice
D35, log 12). `FX29` (R93): `I` becomes `V[X] * 5`, the whole of `V[X]` used (the spec's own choice D31,
log 17). -/
def Obligations.AddIWrapsAndLdFPointsAtTheGlyph : Prop :=
  ∀ (s : State) (x : RegIdx),
    (∃ t, exec (.addI x) s = .next t ∧ t.i.toNat = (s.i.toNat + (s.reg x).toNat) % 65536 ∧
      OnlyChanges (fun p => p = .index) s t) ∧
    (∃ t, exec (.ldF x) s = .next t ∧ t.i.toNat = (s.reg x).toNat * 5 ∧
      OnlyChanges (fun p => p = .index) s t)

/-- `FX33` (R94), with all three addresses valid: hundreds, tens and ones at `I`, `I + 1`, `I + 2`; every
other byte and `I` as before. The range check is the spec's own choice D2, D9 (log 9). -/
def Obligations.LdBStoresTheDecimalDigits : Prop :=
  ∀ (s : State) (x : RegIdx), s.i.toNat + 2 ≤ 0xFFF → ∃ t, exec (.ldB x) s = .next t ∧
    (t.mem.read s.i.toNat).toNat = (s.reg x).toNat / 100 ∧
    (t.mem.read (s.i.toNat + 1)).toNat = (s.reg x).toNat / 10 % 10 ∧
    (t.mem.read (s.i.toNat + 2)).toNat = (s.reg x).toNat % 10 ∧
    OnlyChanges (fun p => ∃ k < 3, p = .byte (s.i.toNat + k)) s t

/-- `FX55` (R95), with every address valid: `V[k]` at `I + k` for each k up to X; every other byte as
before, and `I` unchanged (the spec's own choice D8, log 12; the range check D2, D9, log 9). -/
def Obligations.StoreRegsStoresTheRange : Prop :=
  ∀ (s : State) (x : RegIdx), s.i.toNat + x.val ≤ 0xFFF → ∃ t, exec (.storeRegs x) s = .next t ∧
    (∀ k : RegIdx, k.val ≤ x.val → t.mem.read (s.i.toNat + k.val) = s.reg k) ∧
    OnlyChanges (fun p => ∃ k : RegIdx, k.val ≤ x.val ∧ p = .byte (s.i.toNat + k.val)) s t

/-- `FX65` (R96), with every address valid: `V[k]` from `I + k` for each k up to X; the registers above X
and memory as before, and `I` unchanged (the spec's own choice D8, log 12; the range check D2, D9, log 9). -/
def Obligations.LoadRegsLoadsTheRange : Prop :=
  ∀ (s : State) (x : RegIdx), s.i.toNat + x.val ≤ 0xFFF → ∃ t, exec (.loadRegs x) s = .next t ∧
    (∀ k : RegIdx, k.val ≤ x.val → t.reg k = s.mem.read (s.i.toNat + k.val)) ∧
    OnlyChanges (fun p => ∃ k : RegIdx, k.val ≤ x.val ∧ p = .reg k) s t

/-- Where an address they use is above 0xFFF, `FX33`, `FX55` and `FX65` take ADDRESS_RANGE having written no
byte and no register (R37). D2, D9 and D13 are the spec's own choices (logs 9 and 15). -/
def Obligations.TransfersOutOfRangeFault : Prop :=
  ∀ (s : State) (x : RegIdx) (i : Instr),
    (i = .ldB x ∧ 0xFFF < s.i.toNat + 2) ∨
      ((i = .storeRegs x ∨ i = .loadRegs x) ∧ 0xFFF < s.i.toNat + x.val) →
    ∃ t, exec i s = .next t ∧ t.status = .fault .addressRange ∧ t.faultPc = s.pc - 2 ∧
      OnlyChanges (fun p => p = .status ∨ p = .faultPc) s t

/-! ### Keypad and timers -/

/-- `EX9E` and `EXA1` with a key number up to 0x0F (R97, R98): skip if the key is down, if it is up. The
bound is the spec's own choice D11 (log 14). -/
def Obligations.KeySkipsTestTheKey : Prop :=
  ∀ (s : State) (x : RegIdx), (s.reg x).toNat ≤ 0x0F →
    (∃ t, exec (.skp x) s = .next t ∧
      t.pc = (if s.key.getLsbD (s.reg x).toNat = true then s.pc + 2 else s.pc) ∧
      OnlyChanges (fun p => p = .pc) s t) ∧
    (∃ t, exec (.sknp x) s = .next t ∧
      t.pc = (if s.key.getLsbD (s.reg x).toNat = false then s.pc + 2 else s.pc) ∧
      OnlyChanges (fun p => p = .pc) s t)

/-- `EX9E` and `EXA1` with a key number above 0x0F take KEY_RANGE (R97, R98). The fault is the spec's own
choice D11, its report D12, D13 (logs 14 and 15). -/
def Obligations.KeyRangeFaultIsTaken : Prop :=
  ∀ (s : State) (x : RegIdx) (i : Instr), (s.reg x).toNat > 0x0F → i = .skp x ∨ i = .sknp x →
    ∃ t, exec i s = .next t ∧ t.status = .fault .keyRange ∧ t.faultPc = s.pc - 2 ∧
      OnlyChanges (fun p => p = .status ∨ p = .faultPc) s t

/-- `FX07` and `FX15` (R99, R100): the delay timer is read, and set. -/
def Obligations.DelayTimerIsReadAndSet : Prop :=
  ∀ (s : State) (x : RegIdx),
    (∃ t, exec (.ldVxDt x) s = .next t ∧ t.reg x = s.dt ∧ OnlyChanges (fun p => p = .reg x) s t) ∧
    (∃ t, exec (.ldDtVx x) s = .next t ∧ t.dt = s.reg x ∧ OnlyChanges (fun p => p = .delayTimer) s t)

/-- `FX18` sets the sound timer, and ST_READ gives the host that value (R101, R112). That the value leaves
through ST_READ is the spec's own choice D26 and the interface D1 (log 18), ST_READ while halted D33 (log
15). -/
def Obligations.SoundTimerIsSetAndExposed : Prop :=
  ∀ (s : State) (x : RegIdx) (g : Config.Glyphs), ∃ t, exec (.ldStVx x) s = .next t ∧ t.st = s.reg x ∧
    OnlyChanges (fun p => p = .soundTimer) s t ∧ perform g .stRead t = .next (t, .sound (s.reg x))

/-! ### The host interface -/

/-- TICK (R109): each timer goes down by one if it is not zero, independently; nothing else changes. That it
does so while the block is halted too is the spec's own choice D14 (log 15). -/
def Obligations.TickCountsBothTimersDown : Prop :=
  ∀ (s : State) (g : Config.Glyphs), ∃ t, perform g .tick s = .next (t, .nothing) ∧
    t.dt.toNat = s.dt.toNat - 1 ∧ t.st.toNat = s.st.toNat - 1 ∧
    OnlyChanges (fun p => p = .delayTimer ∨ p = .soundTimer) s t

/-- KEY_SET changes that key only; FB_READ, ST_READ and STATUS_READ change nothing and give FB, ST, STATUS
with FAULT_PC; STEP returns the STATUS it leaves, in every state (R56, R103, R112). The interface is the
spec's own choice D1, ST_READ D26 (log 18), the report D12, and that the operations act alike while halted
D33 (log 15). -/
def Obligations.KeySetAndReadsActAsListed : Prop :=
  ∀ (s : State) (g : Config.Glyphs) (k : KeyIdx) (down : Bool),
    (∃ t, perform g (.keySet k down) s = .next (t, .nothing) ∧
      (∀ j : KeyIdx, t.keyDown j.val = if j = k then down else s.keyDown j.val) ∧
      OnlyChanges (fun p => p = .keys) s t) ∧
    (∀ b, ∃ t, cycle b s = .next t ∧ perform g (.step b) s = .next (t, .status t.status)) ∧
    perform g .fbRead s = .next (s, .frame s.fb) ∧
    perform g .stRead s = .next (s, .sound s.st) ∧
    perform g .statusRead s = .next (s, .report s.status s.faultPc)

/-- LOAD of a readable image of at most 3584 bytes succeeds, the empty image included: the font, the image
from 0x200, zeros elsewhere, every register and timer 0, PC = 0x200, STATUS = OK (R118). The zeroing of all
of memory, the registers and the stack's entries is the spec's own choice D15, the empty image D25 (log 16),
STATUS and FAULT_PC D12 (log 15), SP as a count D29 (log 17), the interface D1 (log 18); the font is the
parameter FONT_TABLE (D19, log 2). -/
def Obligations.LoadInitialisesTheBlock : Prop :=
  ∀ (s : State) (g : Config.Glyphs) (image : List Byte), image.length ≤ 3584 →
    ∃ t, perform g (.load image true) s = .next (t, .status .ok) ∧ t.status = .ok ∧
      (∀ j < 80, t.mem.read j = (Config.fontTable g).getD j 0) ∧
      (∀ a, 0x050 ≤ a → a < 0x200 → t.mem.read a = 0) ∧
      (∀ j < image.length, t.mem.read (0x200 + j) = image.getD j 0) ∧
      (∀ a, 0x200 + image.length ≤ a → a ≤ 0xFFF → t.mem.read a = 0) ∧
      (∀ x, t.reg x = 0) ∧ t.i = 0 ∧ t.pc = 0x200 ∧ t.sp = 0 ∧ (∀ k : Fin 12, t.stack[k] = 0) ∧
      t.dt = 0 ∧ t.st = 0 ∧ (∀ p, t.pixel p = false) ∧ t.key = 0 ∧ t.faultPc = 0

/-- A failed LOAD (R118, R119): an unreadable source gives LOAD_UNREADABLE (5) whatever the length, a longer
image LOAD_TOO_LARGE (6); a STEP after it changes nothing. The order and the codes are the spec's own choice
D32, the halted STEP D18 (log 16), that it draws no byte is the model's (log 1). -/
def Obligations.FailedLoadReportsItsError : Prop :=
  ∀ (s : State) (g : Config.Glyphs) (image : List Byte),
    (∃ t, perform g (.load image false) s = .next (t, .status t.status) ∧ t.status.code = 5 ∧
      step t = .next t) ∧
    (3584 < image.length → ∃ t, perform g (.load image true) s = .next (t, .status t.status) ∧
      t.status.code = 6 ∧ step t = .next t)

/-- Reset restores the exact post-load state (R120): whatever two states a readable image is loaded into,
halted or not, the blocks after it agree. With the default font the empty image gives power-on (R121). That
a reset is a LOAD of the image the host kept is the spec's own choice D17, that LOAD writes every item D15,
the empty image D25, power-on D16 (log 16). That power-on holds the default font is log 2 (D19, PRESUMED,
unsafe for the bytes 0x005 to 0x04F). -/
def Obligations.ResetRestoresTheLoadState : Prop :=
  (∀ (s s' : State) (g : Config.Glyphs) (image : List Byte), image.length ≤ 3584 →
    (s.load g image true).SameBlock (s'.load g image true)) ∧
  ∀ s : State, State.reset.SameBlock (s.load Config.defaultGlyphs [] true)
end

