-- ==== Sys2Proof/Laws/Decode.lean ====
section
/-!
SUPPORT. The fields of an opcode word in arithmetic, the fields of each layout of the encoder, and the
bytes of a word.
-/

namespace Sys2Proof

/-! ### Fields as numbers -/

theorem toNat_fieldMajor (w : Word) : (fieldMajor w).toNat = w.toNat / 4096 := by
  have := w.isLt
  simp only [fieldMajor, BitVec.extractLsb'_toNat, Nat.shiftRight_eq_div_pow]; omega

theorem val_fieldX (w : Word) : (fieldX w).val = w.toNat / 256 % 16 := by
  show (w.extractLsb' 8 4).toNat = _
  simp only [BitVec.extractLsb'_toNat, Nat.shiftRight_eq_div_pow]

theorem val_fieldY (w : Word) : (fieldY w).val = w.toNat / 16 % 16 := by
  show (w.extractLsb' 4 4).toNat = _
  simp only [BitVec.extractLsb'_toNat, Nat.shiftRight_eq_div_pow]

theorem val_fieldN (w : Word) : (fieldN w).val = w.toNat % 16 := by
  show (w.extractLsb' 0 4).toNat = _
  simp only [BitVec.extractLsb'_toNat, Nat.shiftRight_eq_div_pow]; omega

theorem toNat_fieldNN (w : Word) : (fieldNN w).toNat = w.toNat % 256 := by
  simp only [fieldNN, BitVec.extractLsb'_toNat, Nat.shiftRight_eq_div_pow]; omega

theorem toNat_fieldNNN (w : Word) : (fieldNNN w).toNat = w.toNat % 4096 := by
  simp only [fieldNNN, BitVec.extractLsb'_toNat, Nat.shiftRight_eq_div_pow]; omega

/-! ### Layouts as numbers -/

theorem toNat_layoutNNN (op : BitVec 4) (nnn : Addr) :
    (layoutNNN op nnn).toNat = op.toNat * 4096 + nnn.toNat := by
  show (op ++ nnn).toNat = _
  rw [BitVec.toNat_append, ← Nat.shiftLeft_add_eq_or_of_lt nnn.isLt, Nat.shiftLeft_eq]

theorem toNat_layoutXNN (op : BitVec 4) (x : RegIdx) (nn : Byte) :
    (layoutXNN op x nn).toNat = op.toNat * 4096 + x.val * 256 + nn.toNat := by
  have h : ((BitVec.ofFin x : BitVec 4) ++ nn).toNat = x.val * 256 + nn.toNat := by
    rw [BitVec.toNat_append, ← Nat.shiftLeft_add_eq_or_of_lt nn.isLt, Nat.shiftLeft_eq]; rfl
  refine (toNat_layoutNNN op ((BitVec.ofFin x : BitVec 4) ++ nn : BitVec 12)).trans ?_
  rw [h]; omega

theorem toNat_layoutXYN (op : BitVec 4) (x y : RegIdx) (n : BitVec 4) :
    (layoutXYN op x y n).toNat = op.toNat * 4096 + x.val * 256 + y.val * 16 + n.toNat := by
  have h : ((BitVec.ofFin y : BitVec 4) ++ n).toNat = y.val * 16 + n.toNat := by
    rw [BitVec.toNat_append, ← Nat.shiftLeft_add_eq_or_of_lt n.isLt, Nat.shiftLeft_eq]; rfl
  refine (toNat_layoutXNN op x ((BitVec.ofFin y : BitVec 4) ++ n : BitVec 8)).trans ?_
  rw [h]; omega

/-! ### The fields of each layout -/

@[simp] theorem fieldMajor_layoutNNN (op : BitVec 4) (nnn : Addr) : fieldMajor (layoutNNN op nnn) = op := by
  have := nnn.isLt
  apply BitVec.eq_of_toNat_eq; rw [toNat_fieldMajor, toNat_layoutNNN]; omega

@[simp] theorem fieldNNN_layoutNNN (op : BitVec 4) (nnn : Addr) : fieldNNN (layoutNNN op nnn) = nnn := by
  have := nnn.isLt
  apply BitVec.eq_of_toNat_eq; rw [toNat_fieldNNN, toNat_layoutNNN]; omega

@[simp] theorem fieldMajor_layoutXNN (op : BitVec 4) (x : RegIdx) (nn : Byte) :
    fieldMajor (layoutXNN op x nn) = op := by
  have := nn.isLt; have := x.isLt
  apply BitVec.eq_of_toNat_eq; rw [toNat_fieldMajor, toNat_layoutXNN]; omega

@[simp] theorem fieldX_layoutXNN (op : BitVec 4) (x : RegIdx) (nn : Byte) : fieldX (layoutXNN op x nn) = x := by
  have := nn.isLt; have := x.isLt
  apply Fin.ext; rw [val_fieldX, toNat_layoutXNN]; omega

@[simp] theorem fieldNN_layoutXNN (op : BitVec 4) (x : RegIdx) (nn : Byte) : fieldNN (layoutXNN op x nn) = nn := by
  have := nn.isLt; have := x.isLt
  apply BitVec.eq_of_toNat_eq; rw [toNat_fieldNN, toNat_layoutXNN]; omega

@[simp] theorem fieldMajor_layoutXYN (op : BitVec 4) (x y : RegIdx) (n : BitVec 4) :
    fieldMajor (layoutXYN op x y n) = op := by
  have := n.isLt; have := x.isLt; have := y.isLt
  apply BitVec.eq_of_toNat_eq; rw [toNat_fieldMajor, toNat_layoutXYN]; omega

@[simp] theorem fieldX_layoutXYN (op : BitVec 4) (x y : RegIdx) (n : BitVec 4) :
    fieldX (layoutXYN op x y n) = x := by
  have := n.isLt; have := x.isLt; have := y.isLt
  apply Fin.ext; rw [val_fieldX, toNat_layoutXYN]; omega

@[simp] theorem fieldY_layoutXYN (op : BitVec 4) (x y : RegIdx) (n : BitVec 4) :
    fieldY (layoutXYN op x y n) = y := by
  have := n.isLt; have := x.isLt; have := y.isLt
  apply Fin.ext; rw [val_fieldY, toNat_layoutXYN]; omega

@[simp] theorem fieldN_layoutXYN (op : BitVec 4) (x y : RegIdx) (n : BitVec 4) :
    fieldN (layoutXYN op x y n) = n.toFin := by
  have := n.isLt; have := x.isLt; have := y.isLt
  apply Fin.ext; rw [val_fieldN, toNat_layoutXYN]
  show _ = n.toNat
  omega

/-! ### Bytes -/

theorem toNat_wordOfBytes (hi lo : Byte) : (wordOfBytes hi lo).toNat = hi.toNat * 256 + lo.toNat := by
  show (hi ++ lo).toNat = _
  rw [BitVec.toNat_append, ← Nat.shiftLeft_add_eq_or_of_lt lo.isLt, Nat.shiftLeft_eq]

/-- The two bytes of a word, put together again, are the word (R33). -/
@[simp] theorem wordOfBytes_bytes (w : Word) : wordOfBytes (highByte w) (lowByte w) = w := by
  have := w.isLt
  apply BitVec.eq_of_toNat_eq
  rw [toNat_wordOfBytes]
  simp only [highByte, lowByte, BitVec.extractLsb'_toNat, Nat.shiftRight_eq_div_pow]; omega

end Sys2Proof
end

