-- ==== Sys2Proof/Laws/Memory.lean ====
section
/-!
SUPPORT. The laws of memory: a read after a write, the canonical form every operation keeps, and equal
memories are equal data.
-/

namespace Sys2Proof.Machine

/-! ### A read after a write -/

theorem Memory.read_without (m : Memory) (a b : Nat) :
    (m.without a).read b = if b = a then Memory.unlisted a else m.read b := by
  induction m with
  | nil => simp only [Memory.without, List.filter_nil, Memory.read]; split_ifs with h <;> simp [h]
  | cons c m ih =>
    obtain ⟨d, u⟩ := c
    simp only [Memory.without, List.filter_cons] at ih ⊢
    by_cases hd : d = a
    · subst hd
      by_cases hb : b = d
      · subst hb; simpa using ih
      · simp [ih, hb, Memory.read, Ne.symm hb]
    · by_cases hb : d = b
      · subst hb; simp [hd, Memory.read]
      · simp [hd, Memory.read, hb, ih]

theorem Memory.read_place (m : Memory) (a b : Nat) (w : Byte) (h : ∀ c ∈ m, c.1 ≠ a) :
    (m.place a w).read b = if b = a then w else m.read b := by
  induction m with
  | nil =>
    by_cases hb : b = a
    · simp [Memory.place, Memory.read, hb]
    · simp [Memory.place, Memory.read, hb, Ne.symm hb]
  | cons c m ih =>
    obtain ⟨d, u⟩ := c
    have hd : d ≠ a := h (d, u) (by simp)
    have ih := ih fun c hc => h c (by simp [hc])
    simp only [Memory.place]
    by_cases hb : b = a
    · subst hb
      by_cases hlt : b < d <;> simp [hlt, Memory.read, hd, ih]
    · split_ifs <;> simp [Memory.read, ih, hb, Ne.symm hb]

/-- The one law of a write: its address reads as the byte written, every other address as before. -/
theorem Memory.read_write (m : Memory) (a b : Nat) (w : Byte) :
    (m.write a w).read b = if b = a then w else m.read b := by
  unfold Memory.write
  split_ifs with hw hb hb
  · simp [Memory.read_without, hb, hw]
  · simp [Memory.read_without, hb]
  · rw [Memory.read_place _ _ _ _ (by simp [Memory.without]), if_pos hb]
  · rw [Memory.read_place _ _ _ _ (by simp [Memory.without]), if_neg hb,
      Memory.read_without, if_neg hb]

@[simp] theorem Memory.read_write_same (m : Memory) (a : Nat) (w : Byte) : (m.write a w).read a = w := by
  simp [Memory.read_write]

theorem Memory.read_write_other (m : Memory) (a b : Nat) (w : Byte) (h : b ≠ a) :
    (m.write a w).read b = m.read b := by
  simp [Memory.read_write, h]

/-- What every address reads as after bytes are written from `base` on. -/
theorem read_writeBytes (m : Memory) (base : Nat) (ws : List Byte) (a : Nat) :
    (writeBytes m base ws).read a =
      if base ≤ a ∧ a < base + ws.length then ws.getD (a - base) 0 else m.read a := by
  induction ws generalizing m base with
  | nil => rw [writeBytes, if_neg]; simp
  | cons w ws ih =>
    rw [writeBytes, ih, Memory.read_write]
    simp only [List.length_cons]
    by_cases h0 : a = base
    · subst h0; rw [if_neg (by omega)]; simp
    · by_cases h1 : base ≤ a ∧ a < base + (ws.length + 1)
      · rw [if_pos (by omega), if_pos h1]
        obtain ⟨k, rfl⟩ : ∃ k, a = base + 1 + k := ⟨a - (base + 1), by omega⟩
        rw [show base + 1 + k - (base + 1) = k by omega, show base + 1 + k - base = k + 1 by omega]
        simp
      · rw [if_neg (by omega), if_neg h0, if_neg h1]

/-! ### The canonical form -/

theorem Memory.wfFrom_mono {lo lo' : Nat} {m : Memory} (h : Memory.wfFrom lo m = true) (hle : lo' ≤ lo) :
    Memory.wfFrom lo' m = true := by
  cases m with
  | nil => rfl
  | cons c m =>
    simp only [Memory.wfFrom, Bool.and_eq_true, decide_eq_true_eq] at h ⊢
    exact ⟨⟨⟨by omega, h.1.1.2⟩, h.1.2⟩, h.2⟩

theorem Memory.wfFrom_without {lo : Nat} {m : Memory} (a : Nat) (h : Memory.wfFrom lo m = true) :
    Memory.wfFrom lo (m.without a) = true := by
  induction m generalizing lo with
  | nil => exact h
  | cons c m ih =>
    obtain ⟨d, u⟩ := c
    simp only [Memory.wfFrom, Bool.and_eq_true, decide_eq_true_eq] at h
    have ih := ih h.2
    simp only [Memory.without, List.filter_cons] at ih ⊢
    split_ifs
    · simp only [Memory.wfFrom, Bool.and_eq_true, decide_eq_true_eq]
      exact ⟨h.1, ih⟩
    · exact Memory.wfFrom_mono ih (by omega)

theorem Memory.wfFrom_place {lo : Nat} {m : Memory} {a : Nat} {w : Byte} (h : Memory.wfFrom lo m = true)
    (hlo : lo ≤ a) (ha : a < Config.memSize) (hw : w ≠ Memory.unlisted a) (hne : ∀ c ∈ m, c.1 ≠ a) :
    Memory.wfFrom lo (m.place a w) = true := by
  induction m generalizing lo with
  | nil => simp [Memory.place, Memory.wfFrom, hlo, ha, hw]
  | cons c m ih =>
    obtain ⟨d, u⟩ := c
    have hd : d ≠ a := hne (d, u) (by simp)
    simp only [Memory.wfFrom, Bool.and_eq_true, decide_eq_true_eq] at h
    simp only [Memory.place]
    split_ifs with hlt
    · simp only [Memory.wfFrom, Bool.and_eq_true, decide_eq_true_eq]
      exact ⟨⟨⟨hlo, ha⟩, hw⟩, ⟨⟨⟨by omega, h.1.1.2⟩, h.1.2⟩, h.2⟩⟩
    · simp only [Memory.wfFrom, Bool.and_eq_true, decide_eq_true_eq]
      exact ⟨h.1, ih h.2 (by omega) fun c hc => hne c (by simp [hc])⟩

/-- A write to a valid address keeps the canonical form. -/
theorem Memory.wf_write {m : Memory} {a : Nat} {w : Byte} (h : m.wf = true) (ha : a < Config.memSize) :
    (m.write a w).wf = true := by
  unfold Memory.write
  split_ifs with hw
  · exact Memory.wfFrom_without a h
  · exact Memory.wfFrom_place (Memory.wfFrom_without a h) (by omega) ha hw (by simp [Memory.without])

/-- Writing bytes to valid addresses keeps the canonical form. -/
theorem wf_writeBytes {m : Memory} {base : Nat} {ws : List Byte} (h : m.wf = true)
    (hr : base + ws.length ≤ Config.memSize) : (writeBytes m base ws).wf = true := by
  induction ws generalizing m base with
  | nil => exact h
  | cons w ws ih =>
    simp only [List.length_cons] at hr
    exact ih (Memory.wf_write h (by omega)) (by omega)

/-- The cells of a function's values from `lo` on are in canonical form. -/
theorem wfFrom_cells (f : Nat → Byte) (lo n : Nat) (h : lo + n ≤ Config.memSize) :
    Memory.wfFrom lo ((List.range' lo n).filterMap
      fun a => if f a = Memory.unlisted a then none else some (a, f a)) = true := by
  induction n generalizing lo with
  | zero => rfl
  | succ n ih =>
    rw [List.range'_succ, List.filterMap_cons]
    have ih := ih (lo + 1) (by omega)
    split
    · exact Memory.wfFrom_mono ih (by omega)
    · rename_i c hc
      split_ifs at hc with hf
      cases hc
      simp only [Memory.wfFrom, Bool.and_eq_true, decide_eq_true_eq]
      exact ⟨⟨⟨by omega, by omega⟩, hf⟩, ih⟩

/-- The memory built from a function is in canonical form. -/
theorem wf_memoryOf (f : Nat → Byte) : (memoryOf f).wf = true := by
  rw [memoryOf, List.range_eq_range']
  exact wfFrom_cells f 0 Config.memSize (by omega)

/-! ### Equal memories are equal data -/

/-- A canonical memory whose cells start at `lo` reads as unlisted below it. -/
theorem Memory.read_below {lo : Nat} {m : Memory} (h : Memory.wfFrom lo m = true) {a : Nat} (ha : a < lo) :
    m.read a = Memory.unlisted a := by
  induction m generalizing lo with
  | nil => rfl
  | cons c m ih =>
    obtain ⟨d, u⟩ := c
    simp only [Memory.wfFrom, Bool.and_eq_true, decide_eq_true_eq] at h
    rw [Memory.read, if_neg (by omega)]
    exact ih h.2 (by omega)

/-! ### The access checks -/

theorem memRead_eq_some {m : Memory} {a : Nat} {b : Byte} :
    memRead m a = some b ↔ a ≤ 0xFFF ∧ m.read a = b := by
  unfold memRead
  split_ifs with h
  · simp; omega
  · simp; omega

/-- `rangeOk` says exactly that each address used is valid (R29, R37). -/
theorem rangeOk_iff (base len : Nat) : rangeOk base len = true ↔ ∀ k < len, base + k ≤ 0xFFF := by
  simp only [rangeOk, Bool.or_eq_true, beq_iff_eq, decide_eq_true_eq]
  constructor
  · intro h k hk; rcases h with h | h
    · omega
    · have : base + len ≤ 4096 := h; omega
  · intro h
    by_cases h0 : len = 0
    · exact .inl h0
    · right; have := h (len - 1) (by omega); show base + len ≤ 4096; omega

/-- FETCH answers a word exactly where both its bytes are valid (R32). -/
theorem fetch_eq (m : Memory) (pc : Word) :
    fetch m pc = if pc.toNat ≤ 0xFFE then
      some (wordOfBytes (m.read pc.toNat) (m.read (pc.toNat + 1))) else none := by
  unfold fetch memRead
  by_cases h : pc.toNat ≤ 0xFFE
  · rw [if_neg (by omega), if_neg (by omega), if_pos h]; rfl
  · by_cases h' : pc.toNat > 0xFFF
    · rw [if_pos h', if_neg h]; rfl
    · rw [if_neg h', if_pos (by omega), if_neg h]; rfl

end Sys2Proof.Machine
end

