-- ==== Sys2Proof/Laws/HostPort.lean ====
section
/-!
SUPPORT. One lemma per field per host operation that changes the state (TICK, KEY_SET, and the two ends of
a LOAD), and what LOAD leaves in memory.
-/

namespace Sys2Proof.Machine

variable (s : State)

/-! ### `State.tick` -/

@[simp] theorem tick_v : (s.tick).v = s.v := rfl
@[simp] theorem tick_i : (s.tick).i = s.i := rfl
@[simp] theorem tick_pc : (s.tick).pc = s.pc := rfl
@[simp] theorem tick_stack : (s.tick).stack = s.stack := rfl
@[simp] theorem tick_sp : (s.tick).sp = s.sp := rfl
@[simp] theorem tick_dt : (s.tick).dt = countDown s.dt := rfl
@[simp] theorem tick_st : (s.tick).st = countDown s.st := rfl
@[simp] theorem tick_mem : (s.tick).mem = s.mem := rfl
@[simp] theorem tick_fb : (s.tick).fb = s.fb := rfl
@[simp] theorem tick_key : (s.tick).key = s.key := rfl
@[simp] theorem tick_status : (s.tick).status = s.status := rfl
@[simp] theorem tick_faultPc : (s.tick).faultPc = s.faultPc := rfl
@[simp] theorem tick_rnd : (s.tick).rnd = s.rnd := rfl
@[simp] theorem tick_draws : (s.tick).draws = s.draws := rfl

/-! ### `State.keySet` -/

@[simp] theorem keySet_v (k : KeyIdx) (d : Bool) : (s.keySet k d).v = s.v := rfl
@[simp] theorem keySet_i (k : KeyIdx) (d : Bool) : (s.keySet k d).i = s.i := rfl
@[simp] theorem keySet_pc (k : KeyIdx) (d : Bool) : (s.keySet k d).pc = s.pc := rfl
@[simp] theorem keySet_stack (k : KeyIdx) (d : Bool) : (s.keySet k d).stack = s.stack := rfl
@[simp] theorem keySet_sp (k : KeyIdx) (d : Bool) : (s.keySet k d).sp = s.sp := rfl
@[simp] theorem keySet_dt (k : KeyIdx) (d : Bool) : (s.keySet k d).dt = s.dt := rfl
@[simp] theorem keySet_st (k : KeyIdx) (d : Bool) : (s.keySet k d).st = s.st := rfl
@[simp] theorem keySet_mem (k : KeyIdx) (d : Bool) : (s.keySet k d).mem = s.mem := rfl
@[simp] theorem keySet_fb (k : KeyIdx) (d : Bool) : (s.keySet k d).fb = s.fb := rfl
@[simp] theorem keySet_key (k : KeyIdx) (d : Bool) : (s.keySet k d).key = if d then s.key ||| (1#16 <<< k.val) else s.key &&& ~~~(1#16 <<< k.val) := rfl
@[simp] theorem keySet_status (k : KeyIdx) (d : Bool) : (s.keySet k d).status = s.status := rfl
@[simp] theorem keySet_faultPc (k : KeyIdx) (d : Bool) : (s.keySet k d).faultPc = s.faultPc := rfl
@[simp] theorem keySet_rnd (k : KeyIdx) (d : Bool) : (s.keySet k d).rnd = s.rnd := rfl
@[simp] theorem keySet_draws (k : KeyIdx) (d : Bool) : (s.keySet k d).draws = s.draws := rfl

/-! ### `State.loaded` -/

@[simp] theorem loaded_v (g : Config.Glyphs) (image : List Byte) : (s.loaded g image).v = Vector.replicate 16 0 := rfl
@[simp] theorem loaded_i (g : Config.Glyphs) (image : List Byte) : (s.loaded g image).i = 0 := rfl
@[simp] theorem loaded_pc (g : Config.Glyphs) (image : List Byte) : (s.loaded g image).pc = 0x200 := rfl
@[simp] theorem loaded_stack (g : Config.Glyphs) (image : List Byte) : (s.loaded g image).stack = Vector.replicate 12 0 := rfl
@[simp] theorem loaded_sp (g : Config.Glyphs) (image : List Byte) : (s.loaded g image).sp = 0 := rfl
@[simp] theorem loaded_dt (g : Config.Glyphs) (image : List Byte) : (s.loaded g image).dt = 0 := rfl
@[simp] theorem loaded_st (g : Config.Glyphs) (image : List Byte) : (s.loaded g image).st = 0 := rfl
@[simp] theorem loaded_mem (g : Config.Glyphs) (image : List Byte) : (s.loaded g image).mem = loadedMemory g image := rfl
@[simp] theorem loaded_fb (g : Config.Glyphs) (image : List Byte) : (s.loaded g image).fb = Frame.blank := rfl
@[simp] theorem loaded_key (g : Config.Glyphs) (image : List Byte) : (s.loaded g image).key = 0 := rfl
@[simp] theorem loaded_status (g : Config.Glyphs) (image : List Byte) : (s.loaded g image).status = .ok := rfl
@[simp] theorem loaded_faultPc (g : Config.Glyphs) (image : List Byte) : (s.loaded g image).faultPc = 0 := rfl
@[simp] theorem loaded_rnd (g : Config.Glyphs) (image : List Byte) : (s.loaded g image).rnd = s.rnd := rfl
@[simp] theorem loaded_draws (g : Config.Glyphs) (image : List Byte) : (s.loaded g image).draws = s.draws := rfl

/-! ### `State.loadFailed` -/

@[simp] theorem loadFailed_v (e : LoadError) : (s.loadFailed e).v = Vector.ofFn fun k => Config.failedLoadV s.draws k.val := rfl
@[simp] theorem loadFailed_i (e : LoadError) : (s.loadFailed e).i = Config.failedLoadI s.draws := rfl
@[simp] theorem loadFailed_pc (e : LoadError) : (s.loadFailed e).pc = Config.failedLoadPc s.draws := rfl
@[simp] theorem loadFailed_stack (e : LoadError) : (s.loadFailed e).stack = Vector.ofFn fun k => Config.failedLoadStack s.draws k.val := rfl
@[simp] theorem loadFailed_sp (e : LoadError) : (s.loadFailed e).sp = Config.failedLoadSp s.draws := rfl
@[simp] theorem loadFailed_dt (e : LoadError) : (s.loadFailed e).dt = Config.failedLoadDt s.draws := rfl
@[simp] theorem loadFailed_st (e : LoadError) : (s.loadFailed e).st = Config.failedLoadSt s.draws := rfl
@[simp] theorem loadFailed_mem (e : LoadError) : (s.loadFailed e).mem = memoryOf (Config.failedLoadMem s.draws) := by
  simp only [State.loadFailed]
@[simp] theorem loadFailed_fb (e : LoadError) : (s.loadFailed e).fb = Vector.ofFn fun y => Config.failedLoadFb s.draws y.val := rfl
@[simp] theorem loadFailed_key (e : LoadError) : (s.loadFailed e).key = Config.failedLoadKey s.draws := rfl
@[simp] theorem loadFailed_status (e : LoadError) : (s.loadFailed e).status = .loadError e := rfl
@[simp] theorem loadFailed_faultPc (e : LoadError) : (s.loadFailed e).faultPc = Config.failedLoadFaultPc s.draws := rfl
@[simp] theorem loadFailed_rnd (e : LoadError) : (s.loadFailed e).rnd = s.rnd := rfl
@[simp] theorem loadFailed_draws (e : LoadError) : (s.loadFailed e).draws = s.draws + 1 := rfl

/-! ### LOAD -/

@[simp] theorem length_fontTable (g : Config.Glyphs) : (Config.fontTable g).length = 80 := by
  simp [Config.fontTable, Config.glyph0]

theorem unlisted_above_font {a : Nat} (h : 80 ≤ a) : Memory.unlisted a = 0 := by
  rw [Memory.unlisted, List.getD_eq_getElem?_getD, List.getElem?_eq_none (by simpa using h)]; rfl

/-- What every address reads as after a successful LOAD (R27, R118): the image from the entry point on,
the font argument below 0x050, zero elsewhere. -/
theorem read_loadedMemory (g : Config.Glyphs) (image : List Byte) (a : Nat) :
    (loadedMemory g image).read a =
      if 0x200 ≤ a ∧ a < 0x200 + image.length then image.getD (a - 0x200) 0
      else if a < 80 then (Config.fontTable g).getD a 0 else 0 := by
  rw [loadedMemory, read_writeBytes, read_writeBytes, length_fontTable]
  refine if_congr Iff.rfl rfl ?_
  by_cases h : a < 80
  · rw [if_pos (by omega), if_pos h]; rfl
  · rw [if_neg (by omega), if_neg h]; exact unlisted_above_font (by omega)

/-- A successful LOAD leaves memory in canonical form. -/
theorem wf_loadedMemory (g : Config.Glyphs) (image : List Byte) (h : image.length ≤ Config.maxProgram) :
    (loadedMemory g image).wf = true := by
  refine wf_writeBytes (wf_writeBytes rfl (by simp [Config.memSize])) ?_
  simp only [Config.maxProgram, Config.memSize, Config.entry] at h ⊢; omega

/-- LOAD ends in one of three ways (R118, R119), readability before length (R105). -/
theorem load_eq (g : Config.Glyphs) (image : List Byte) (readable : Bool) :
    s.load g image readable =
      if readable = false then s.loadFailed .unreadable
      else if 3584 < image.length then s.loadFailed .tooLarge
      else s.loaded g image := rfl

end Sys2Proof.Machine
end

