-- ==== Sys2Proof/Laws/State.lean ====
section
/-!
SUPPORT. One lemma per field per update of the state, so that no later proof unfolds a record update, and
the lemmas of `State.reg` over each update.
-/

namespace Sys2Proof.Machine

variable (s : State)

/-! ### `State.setReg` -/

@[simp] theorem setReg_v (x : RegIdx) (b : Byte) : (s.setReg x b).v = s.v.set x b := rfl
@[simp] theorem setReg_i (x : RegIdx) (b : Byte) : (s.setReg x b).i = s.i := rfl
@[simp] theorem setReg_pc (x : RegIdx) (b : Byte) : (s.setReg x b).pc = s.pc := rfl
@[simp] theorem setReg_stack (x : RegIdx) (b : Byte) : (s.setReg x b).stack = s.stack := rfl
@[simp] theorem setReg_sp (x : RegIdx) (b : Byte) : (s.setReg x b).sp = s.sp := rfl
@[simp] theorem setReg_dt (x : RegIdx) (b : Byte) : (s.setReg x b).dt = s.dt := rfl
@[simp] theorem setReg_st (x : RegIdx) (b : Byte) : (s.setReg x b).st = s.st := rfl
@[simp] theorem setReg_mem (x : RegIdx) (b : Byte) : (s.setReg x b).mem = s.mem := rfl
@[simp] theorem setReg_fb (x : RegIdx) (b : Byte) : (s.setReg x b).fb = s.fb := rfl
@[simp] theorem setReg_key (x : RegIdx) (b : Byte) : (s.setReg x b).key = s.key := rfl
@[simp] theorem setReg_status (x : RegIdx) (b : Byte) : (s.setReg x b).status = s.status := rfl
@[simp] theorem setReg_faultPc (x : RegIdx) (b : Byte) : (s.setReg x b).faultPc = s.faultPc := rfl
@[simp] theorem setReg_rnd (x : RegIdx) (b : Byte) : (s.setReg x b).rnd = s.rnd := rfl
@[simp] theorem setReg_draws (x : RegIdx) (b : Byte) : (s.setReg x b).draws = s.draws := rfl
@[simp] theorem setReg_pixel (x : RegIdx) (b : Byte) (n : Nat) : (s.setReg x b).pixel n = s.pixel n := rfl
@[simp] theorem setReg_base (x : RegIdx) (b : Byte) : (s.setReg x b).base = s.base := rfl

/-! ### `State.setV` -/

@[simp] theorem setV_v (w : Vector Byte 16) : (s.setV w).v = w := rfl
@[simp] theorem setV_i (w : Vector Byte 16) : (s.setV w).i = s.i := rfl
@[simp] theorem setV_pc (w : Vector Byte 16) : (s.setV w).pc = s.pc := rfl
@[simp] theorem setV_stack (w : Vector Byte 16) : (s.setV w).stack = s.stack := rfl
@[simp] theorem setV_sp (w : Vector Byte 16) : (s.setV w).sp = s.sp := rfl
@[simp] theorem setV_dt (w : Vector Byte 16) : (s.setV w).dt = s.dt := rfl
@[simp] theorem setV_st (w : Vector Byte 16) : (s.setV w).st = s.st := rfl
@[simp] theorem setV_mem (w : Vector Byte 16) : (s.setV w).mem = s.mem := rfl
@[simp] theorem setV_fb (w : Vector Byte 16) : (s.setV w).fb = s.fb := rfl
@[simp] theorem setV_key (w : Vector Byte 16) : (s.setV w).key = s.key := rfl
@[simp] theorem setV_status (w : Vector Byte 16) : (s.setV w).status = s.status := rfl
@[simp] theorem setV_faultPc (w : Vector Byte 16) : (s.setV w).faultPc = s.faultPc := rfl
@[simp] theorem setV_rnd (w : Vector Byte 16) : (s.setV w).rnd = s.rnd := rfl
@[simp] theorem setV_draws (w : Vector Byte 16) : (s.setV w).draws = s.draws := rfl
@[simp] theorem setV_pixel (w : Vector Byte 16) (n : Nat) : (s.setV w).pixel n = s.pixel n := rfl
@[simp] theorem setV_base (w : Vector Byte 16) : (s.setV w).base = s.base := rfl

/-! ### `State.setI` -/

@[simp] theorem setI_v (w : Word) : (s.setI w).v = s.v := rfl
@[simp] theorem setI_i (w : Word) : (s.setI w).i = w := rfl
@[simp] theorem setI_pc (w : Word) : (s.setI w).pc = s.pc := rfl
@[simp] theorem setI_stack (w : Word) : (s.setI w).stack = s.stack := rfl
@[simp] theorem setI_sp (w : Word) : (s.setI w).sp = s.sp := rfl
@[simp] theorem setI_dt (w : Word) : (s.setI w).dt = s.dt := rfl
@[simp] theorem setI_st (w : Word) : (s.setI w).st = s.st := rfl
@[simp] theorem setI_mem (w : Word) : (s.setI w).mem = s.mem := rfl
@[simp] theorem setI_fb (w : Word) : (s.setI w).fb = s.fb := rfl
@[simp] theorem setI_key (w : Word) : (s.setI w).key = s.key := rfl
@[simp] theorem setI_status (w : Word) : (s.setI w).status = s.status := rfl
@[simp] theorem setI_faultPc (w : Word) : (s.setI w).faultPc = s.faultPc := rfl
@[simp] theorem setI_rnd (w : Word) : (s.setI w).rnd = s.rnd := rfl
@[simp] theorem setI_draws (w : Word) : (s.setI w).draws = s.draws := rfl
@[simp] theorem setI_reg (w : Word) (r : RegIdx) : (s.setI w).reg r = s.reg r := rfl
@[simp] theorem setI_pixel (w : Word) (n : Nat) : (s.setI w).pixel n = s.pixel n := rfl

/-! ### `State.setPc` -/

@[simp] theorem setPc_v (w : Word) : (s.setPc w).v = s.v := rfl
@[simp] theorem setPc_i (w : Word) : (s.setPc w).i = s.i := rfl
@[simp] theorem setPc_pc (w : Word) : (s.setPc w).pc = w := rfl
@[simp] theorem setPc_stack (w : Word) : (s.setPc w).stack = s.stack := rfl
@[simp] theorem setPc_sp (w : Word) : (s.setPc w).sp = s.sp := rfl
@[simp] theorem setPc_dt (w : Word) : (s.setPc w).dt = s.dt := rfl
@[simp] theorem setPc_st (w : Word) : (s.setPc w).st = s.st := rfl
@[simp] theorem setPc_mem (w : Word) : (s.setPc w).mem = s.mem := rfl
@[simp] theorem setPc_fb (w : Word) : (s.setPc w).fb = s.fb := rfl
@[simp] theorem setPc_key (w : Word) : (s.setPc w).key = s.key := rfl
@[simp] theorem setPc_status (w : Word) : (s.setPc w).status = s.status := rfl
@[simp] theorem setPc_faultPc (w : Word) : (s.setPc w).faultPc = s.faultPc := rfl
@[simp] theorem setPc_rnd (w : Word) : (s.setPc w).rnd = s.rnd := rfl
@[simp] theorem setPc_draws (w : Word) : (s.setPc w).draws = s.draws := rfl
@[simp] theorem setPc_reg (w : Word) (r : RegIdx) : (s.setPc w).reg r = s.reg r := rfl
@[simp] theorem setPc_pixel (w : Word) (n : Nat) : (s.setPc w).pixel n = s.pixel n := rfl
@[simp] theorem setPc_base (w : Word) : (s.setPc w).base = s.base := rfl

/-! ### `State.setDt` -/

@[simp] theorem setDt_v (b : Byte) : (s.setDt b).v = s.v := rfl
@[simp] theorem setDt_i (b : Byte) : (s.setDt b).i = s.i := rfl
@[simp] theorem setDt_pc (b : Byte) : (s.setDt b).pc = s.pc := rfl
@[simp] theorem setDt_stack (b : Byte) : (s.setDt b).stack = s.stack := rfl
@[simp] theorem setDt_sp (b : Byte) : (s.setDt b).sp = s.sp := rfl
@[simp] theorem setDt_dt (b : Byte) : (s.setDt b).dt = b := rfl
@[simp] theorem setDt_st (b : Byte) : (s.setDt b).st = s.st := rfl
@[simp] theorem setDt_mem (b : Byte) : (s.setDt b).mem = s.mem := rfl
@[simp] theorem setDt_fb (b : Byte) : (s.setDt b).fb = s.fb := rfl
@[simp] theorem setDt_key (b : Byte) : (s.setDt b).key = s.key := rfl
@[simp] theorem setDt_status (b : Byte) : (s.setDt b).status = s.status := rfl
@[simp] theorem setDt_faultPc (b : Byte) : (s.setDt b).faultPc = s.faultPc := rfl
@[simp] theorem setDt_rnd (b : Byte) : (s.setDt b).rnd = s.rnd := rfl
@[simp] theorem setDt_draws (b : Byte) : (s.setDt b).draws = s.draws := rfl
@[simp] theorem setDt_reg (b : Byte) (r : RegIdx) : (s.setDt b).reg r = s.reg r := rfl
@[simp] theorem setDt_pixel (b : Byte) (n : Nat) : (s.setDt b).pixel n = s.pixel n := rfl
@[simp] theorem setDt_base (b : Byte) : (s.setDt b).base = s.base := rfl

/-! ### `State.setSt` -/

@[simp] theorem setSt_v (b : Byte) : (s.setSt b).v = s.v := rfl
@[simp] theorem setSt_i (b : Byte) : (s.setSt b).i = s.i := rfl
@[simp] theorem setSt_pc (b : Byte) : (s.setSt b).pc = s.pc := rfl
@[simp] theorem setSt_stack (b : Byte) : (s.setSt b).stack = s.stack := rfl
@[simp] theorem setSt_sp (b : Byte) : (s.setSt b).sp = s.sp := rfl
@[simp] theorem setSt_dt (b : Byte) : (s.setSt b).dt = s.dt := rfl
@[simp] theorem setSt_st (b : Byte) : (s.setSt b).st = b := rfl
@[simp] theorem setSt_mem (b : Byte) : (s.setSt b).mem = s.mem := rfl
@[simp] theorem setSt_fb (b : Byte) : (s.setSt b).fb = s.fb := rfl
@[simp] theorem setSt_key (b : Byte) : (s.setSt b).key = s.key := rfl
@[simp] theorem setSt_status (b : Byte) : (s.setSt b).status = s.status := rfl
@[simp] theorem setSt_faultPc (b : Byte) : (s.setSt b).faultPc = s.faultPc := rfl
@[simp] theorem setSt_rnd (b : Byte) : (s.setSt b).rnd = s.rnd := rfl
@[simp] theorem setSt_draws (b : Byte) : (s.setSt b).draws = s.draws := rfl
@[simp] theorem setSt_reg (b : Byte) (r : RegIdx) : (s.setSt b).reg r = s.reg r := rfl
@[simp] theorem setSt_pixel (b : Byte) (n : Nat) : (s.setSt b).pixel n = s.pixel n := rfl
@[simp] theorem setSt_base (b : Byte) : (s.setSt b).base = s.base := rfl

/-! ### `State.setMem` -/

@[simp] theorem setMem_v (m : Memory) : (s.setMem m).v = s.v := rfl
@[simp] theorem setMem_i (m : Memory) : (s.setMem m).i = s.i := rfl
@[simp] theorem setMem_pc (m : Memory) : (s.setMem m).pc = s.pc := rfl
@[simp] theorem setMem_stack (m : Memory) : (s.setMem m).stack = s.stack := rfl
@[simp] theorem setMem_sp (m : Memory) : (s.setMem m).sp = s.sp := rfl
@[simp] theorem setMem_dt (m : Memory) : (s.setMem m).dt = s.dt := rfl
@[simp] theorem setMem_st (m : Memory) : (s.setMem m).st = s.st := rfl
@[simp] theorem setMem_mem (m : Memory) : (s.setMem m).mem = m := rfl
@[simp] theorem setMem_fb (m : Memory) : (s.setMem m).fb = s.fb := rfl
@[simp] theorem setMem_key (m : Memory) : (s.setMem m).key = s.key := rfl
@[simp] theorem setMem_status (m : Memory) : (s.setMem m).status = s.status := rfl
@[simp] theorem setMem_faultPc (m : Memory) : (s.setMem m).faultPc = s.faultPc := rfl
@[simp] theorem setMem_rnd (m : Memory) : (s.setMem m).rnd = s.rnd := rfl
@[simp] theorem setMem_draws (m : Memory) : (s.setMem m).draws = s.draws := rfl
@[simp] theorem setMem_reg (m : Memory) (r : RegIdx) : (s.setMem m).reg r = s.reg r := rfl
@[simp] theorem setMem_pixel (m : Memory) (n : Nat) : (s.setMem m).pixel n = s.pixel n := rfl
@[simp] theorem setMem_base (m : Memory) : (s.setMem m).base = s.base := rfl

/-! ### `State.setFb` -/

@[simp] theorem setFb_v (f : Frame) : (s.setFb f).v = s.v := rfl
@[simp] theorem setFb_i (f : Frame) : (s.setFb f).i = s.i := rfl
@[simp] theorem setFb_pc (f : Frame) : (s.setFb f).pc = s.pc := rfl
@[simp] theorem setFb_stack (f : Frame) : (s.setFb f).stack = s.stack := rfl
@[simp] theorem setFb_sp (f : Frame) : (s.setFb f).sp = s.sp := rfl
@[simp] theorem setFb_dt (f : Frame) : (s.setFb f).dt = s.dt := rfl
@[simp] theorem setFb_st (f : Frame) : (s.setFb f).st = s.st := rfl
@[simp] theorem setFb_mem (f : Frame) : (s.setFb f).mem = s.mem := rfl
@[simp] theorem setFb_fb (f : Frame) : (s.setFb f).fb = f := rfl
@[simp] theorem setFb_key (f : Frame) : (s.setFb f).key = s.key := rfl
@[simp] theorem setFb_status (f : Frame) : (s.setFb f).status = s.status := rfl
@[simp] theorem setFb_faultPc (f : Frame) : (s.setFb f).faultPc = s.faultPc := rfl
@[simp] theorem setFb_rnd (f : Frame) : (s.setFb f).rnd = s.rnd := rfl
@[simp] theorem setFb_draws (f : Frame) : (s.setFb f).draws = s.draws := rfl
@[simp] theorem setFb_reg (f : Frame) (r : RegIdx) : (s.setFb f).reg r = s.reg r := rfl
@[simp] theorem setFb_base (f : Frame) : (s.setFb f).base = s.base := rfl

/-! ### `State.setKeys` -/

@[simp] theorem setKeys_v (k : BitVec 16) : (s.setKeys k).v = s.v := rfl
@[simp] theorem setKeys_i (k : BitVec 16) : (s.setKeys k).i = s.i := rfl
@[simp] theorem setKeys_pc (k : BitVec 16) : (s.setKeys k).pc = s.pc := rfl
@[simp] theorem setKeys_stack (k : BitVec 16) : (s.setKeys k).stack = s.stack := rfl
@[simp] theorem setKeys_sp (k : BitVec 16) : (s.setKeys k).sp = s.sp := rfl
@[simp] theorem setKeys_dt (k : BitVec 16) : (s.setKeys k).dt = s.dt := rfl
@[simp] theorem setKeys_st (k : BitVec 16) : (s.setKeys k).st = s.st := rfl
@[simp] theorem setKeys_mem (k : BitVec 16) : (s.setKeys k).mem = s.mem := rfl
@[simp] theorem setKeys_fb (k : BitVec 16) : (s.setKeys k).fb = s.fb := rfl
@[simp] theorem setKeys_key (k : BitVec 16) : (s.setKeys k).key = k := rfl
@[simp] theorem setKeys_status (k : BitVec 16) : (s.setKeys k).status = s.status := rfl
@[simp] theorem setKeys_faultPc (k : BitVec 16) : (s.setKeys k).faultPc = s.faultPc := rfl
@[simp] theorem setKeys_rnd (k : BitVec 16) : (s.setKeys k).rnd = s.rnd := rfl
@[simp] theorem setKeys_draws (k : BitVec 16) : (s.setKeys k).draws = s.draws := rfl
@[simp] theorem setKeys_reg (k : BitVec 16) (r : RegIdx) : (s.setKeys k).reg r = s.reg r := rfl
@[simp] theorem setKeys_pixel (k : BitVec 16) (n : Nat) : (s.setKeys k).pixel n = s.pixel n := rfl
@[simp] theorem setKeys_base (k : BitVec 16) : (s.setKeys k).base = s.base := rfl

/-! ### `State.setStack` -/

@[simp] theorem setStack_v (e : Vector Word 12) (p : Fin 13) : (s.setStack e p).v = s.v := rfl
@[simp] theorem setStack_i (e : Vector Word 12) (p : Fin 13) : (s.setStack e p).i = s.i := rfl
@[simp] theorem setStack_pc (e : Vector Word 12) (p : Fin 13) : (s.setStack e p).pc = s.pc := rfl
@[simp] theorem setStack_stack (e : Vector Word 12) (p : Fin 13) : (s.setStack e p).stack = e := rfl
@[simp] theorem setStack_sp (e : Vector Word 12) (p : Fin 13) : (s.setStack e p).sp = p := rfl
@[simp] theorem setStack_dt (e : Vector Word 12) (p : Fin 13) : (s.setStack e p).dt = s.dt := rfl
@[simp] theorem setStack_st (e : Vector Word 12) (p : Fin 13) : (s.setStack e p).st = s.st := rfl
@[simp] theorem setStack_mem (e : Vector Word 12) (p : Fin 13) : (s.setStack e p).mem = s.mem := rfl
@[simp] theorem setStack_fb (e : Vector Word 12) (p : Fin 13) : (s.setStack e p).fb = s.fb := rfl
@[simp] theorem setStack_key (e : Vector Word 12) (p : Fin 13) : (s.setStack e p).key = s.key := rfl
@[simp] theorem setStack_status (e : Vector Word 12) (p : Fin 13) : (s.setStack e p).status = s.status := rfl
@[simp] theorem setStack_faultPc (e : Vector Word 12) (p : Fin 13) : (s.setStack e p).faultPc = s.faultPc := rfl
@[simp] theorem setStack_rnd (e : Vector Word 12) (p : Fin 13) : (s.setStack e p).rnd = s.rnd := rfl
@[simp] theorem setStack_draws (e : Vector Word 12) (p : Fin 13) : (s.setStack e p).draws = s.draws := rfl
@[simp] theorem setStack_reg (e : Vector Word 12) (p : Fin 13) (r : RegIdx) : (s.setStack e p).reg r = s.reg r := rfl
@[simp] theorem setStack_pixel (e : Vector Word 12) (p : Fin 13) (n : Nat) : (s.setStack e p).pixel n = s.pixel n := rfl
@[simp] theorem setStack_base (e : Vector Word 12) (p : Fin 13) : (s.setStack e p).base = s.base := rfl

/-! ### `State.enterFault` -/

@[simp] theorem enterFault_v (c : FaultCode) (a : Word) : (s.enterFault c a).v = s.v := rfl
@[simp] theorem enterFault_i (c : FaultCode) (a : Word) : (s.enterFault c a).i = s.i := rfl
@[simp] theorem enterFault_pc (c : FaultCode) (a : Word) : (s.enterFault c a).pc = s.pc := rfl
@[simp] theorem enterFault_stack (c : FaultCode) (a : Word) : (s.enterFault c a).stack = s.stack := rfl
@[simp] theorem enterFault_sp (c : FaultCode) (a : Word) : (s.enterFault c a).sp = s.sp := rfl
@[simp] theorem enterFault_dt (c : FaultCode) (a : Word) : (s.enterFault c a).dt = s.dt := rfl
@[simp] theorem enterFault_st (c : FaultCode) (a : Word) : (s.enterFault c a).st = s.st := rfl
@[simp] theorem enterFault_mem (c : FaultCode) (a : Word) : (s.enterFault c a).mem = s.mem := rfl
@[simp] theorem enterFault_fb (c : FaultCode) (a : Word) : (s.enterFault c a).fb = s.fb := rfl
@[simp] theorem enterFault_key (c : FaultCode) (a : Word) : (s.enterFault c a).key = s.key := rfl
@[simp] theorem enterFault_status (c : FaultCode) (a : Word) : (s.enterFault c a).status = .fault c := rfl
@[simp] theorem enterFault_faultPc (c : FaultCode) (a : Word) : (s.enterFault c a).faultPc = a := rfl
@[simp] theorem enterFault_rnd (c : FaultCode) (a : Word) : (s.enterFault c a).rnd = s.rnd := rfl
@[simp] theorem enterFault_draws (c : FaultCode) (a : Word) : (s.enterFault c a).draws = s.draws := rfl
@[simp] theorem enterFault_reg (c : FaultCode) (a : Word) (r : RegIdx) : (s.enterFault c a).reg r = s.reg r := rfl
@[simp] theorem enterFault_pixel (c : FaultCode) (a : Word) (n : Nat) : (s.enterFault c a).pixel n = s.pixel n := rfl
@[simp] theorem enterFault_base (c : FaultCode) (a : Word) : (s.enterFault c a).base = s.base := rfl

/-! ### `State.latchRnd` -/

@[simp] theorem latchRnd_v (b : Byte) : (s.latchRnd b).v = s.v := rfl
@[simp] theorem latchRnd_i (b : Byte) : (s.latchRnd b).i = s.i := rfl
@[simp] theorem latchRnd_pc (b : Byte) : (s.latchRnd b).pc = s.pc := rfl
@[simp] theorem latchRnd_stack (b : Byte) : (s.latchRnd b).stack = s.stack := rfl
@[simp] theorem latchRnd_sp (b : Byte) : (s.latchRnd b).sp = s.sp := rfl
@[simp] theorem latchRnd_dt (b : Byte) : (s.latchRnd b).dt = s.dt := rfl
@[simp] theorem latchRnd_st (b : Byte) : (s.latchRnd b).st = s.st := rfl
@[simp] theorem latchRnd_mem (b : Byte) : (s.latchRnd b).mem = s.mem := rfl
@[simp] theorem latchRnd_fb (b : Byte) : (s.latchRnd b).fb = s.fb := rfl
@[simp] theorem latchRnd_key (b : Byte) : (s.latchRnd b).key = s.key := rfl
@[simp] theorem latchRnd_status (b : Byte) : (s.latchRnd b).status = s.status := rfl
@[simp] theorem latchRnd_faultPc (b : Byte) : (s.latchRnd b).faultPc = s.faultPc := rfl
@[simp] theorem latchRnd_rnd (b : Byte) : (s.latchRnd b).rnd = b := rfl
@[simp] theorem latchRnd_draws (b : Byte) : (s.latchRnd b).draws = s.draws + 1 := rfl
@[simp] theorem latchRnd_reg (b : Byte) (r : RegIdx) : (s.latchRnd b).reg r = s.reg r := rfl
@[simp] theorem latchRnd_pixel (b : Byte) (n : Nat) : (s.latchRnd b).pixel n = s.pixel n := rfl
@[simp] theorem latchRnd_base (b : Byte) : (s.latchRnd b).base = s.base := rfl

/-! ### `State.advance` -/

@[simp] theorem advance_v : (s.advance).v = s.v := rfl
@[simp] theorem advance_i : (s.advance).i = s.i := rfl
@[simp] theorem advance_pc : (s.advance).pc = s.pc + 2 := rfl
@[simp] theorem advance_stack : (s.advance).stack = s.stack := rfl
@[simp] theorem advance_sp : (s.advance).sp = s.sp := rfl
@[simp] theorem advance_dt : (s.advance).dt = s.dt := rfl
@[simp] theorem advance_st : (s.advance).st = s.st := rfl
@[simp] theorem advance_mem : (s.advance).mem = s.mem := rfl
@[simp] theorem advance_fb : (s.advance).fb = s.fb := rfl
@[simp] theorem advance_key : (s.advance).key = s.key := rfl
@[simp] theorem advance_status : (s.advance).status = s.status := rfl
@[simp] theorem advance_faultPc : (s.advance).faultPc = s.faultPc := rfl
@[simp] theorem advance_rnd : (s.advance).rnd = s.rnd := rfl
@[simp] theorem advance_draws : (s.advance).draws = s.draws := rfl
@[simp] theorem advance_reg (r : RegIdx) : (s.advance).reg r = s.reg r := rfl
@[simp] theorem advance_pixel (n : Nat) : (s.advance).pixel n = s.pixel n := rfl
@[simp] theorem advance_base : (s.advance).base = s.base := rfl

/-! ### `State.skipIf` -/

theorem skipIf_eq (c : Bool) : s.skipIf c = s.setPc (if c then s.pc + 2 else s.pc) := by
  cases c <;> rfl

@[simp] theorem skipIf_v (c : Bool) : (s.skipIf c).v = s.v := by cases c <;> rfl
@[simp] theorem skipIf_i (c : Bool) : (s.skipIf c).i = s.i := by cases c <;> rfl
@[simp] theorem skipIf_pc (c : Bool) : (s.skipIf c).pc = if c then s.pc + 2 else s.pc := by
  cases c <;> rfl
@[simp] theorem skipIf_stack (c : Bool) : (s.skipIf c).stack = s.stack := by cases c <;> rfl
@[simp] theorem skipIf_sp (c : Bool) : (s.skipIf c).sp = s.sp := by cases c <;> rfl
@[simp] theorem skipIf_dt (c : Bool) : (s.skipIf c).dt = s.dt := by cases c <;> rfl
@[simp] theorem skipIf_st (c : Bool) : (s.skipIf c).st = s.st := by cases c <;> rfl
@[simp] theorem skipIf_mem (c : Bool) : (s.skipIf c).mem = s.mem := by cases c <;> rfl
@[simp] theorem skipIf_fb (c : Bool) : (s.skipIf c).fb = s.fb := by cases c <;> rfl
@[simp] theorem skipIf_key (c : Bool) : (s.skipIf c).key = s.key := by cases c <;> rfl
@[simp] theorem skipIf_status (c : Bool) : (s.skipIf c).status = s.status := by cases c <;> rfl
@[simp] theorem skipIf_faultPc (c : Bool) : (s.skipIf c).faultPc = s.faultPc := by cases c <;> rfl
@[simp] theorem skipIf_rnd (c : Bool) : (s.skipIf c).rnd = s.rnd := by cases c <;> rfl
@[simp] theorem skipIf_draws (c : Bool) : (s.skipIf c).draws = s.draws := by cases c <;> rfl
@[simp] theorem skipIf_reg (c : Bool) (r : RegIdx) : (s.skipIf c).reg r = s.reg r := by cases c <;> rfl
@[simp] theorem skipIf_pixel (c : Bool) (n : Nat) : (s.skipIf c).pixel n = s.pixel n := by cases c <;> rfl
@[simp] theorem skipIf_base (c : Bool) : (s.skipIf c).base = s.base := by cases c <;> rfl

/-! ### Registers -/

@[simp] theorem reg_setReg_same (x : RegIdx) (b : Byte) : (s.setReg x b).reg x = b := by
  simp [State.reg, State.setReg]

theorem reg_setReg (x r : RegIdx) (b : Byte) :
    (s.setReg x b).reg r = if r = x then b else s.reg r := by
  by_cases h : r = x
  · subst h; simp
  · have h' : x.val ≠ r.val := fun e => h (Fin.ext e.symm)
    simp [State.reg, State.setReg, h, h']

theorem reg_setReg_other (x r : RegIdx) (b : Byte) (h : r ≠ x) : (s.setReg x b).reg r = s.reg r := by
  simp [reg_setReg, h]

theorem setReg_setReg (x : RegIdx) (a b : Byte) : (s.setReg x a).setReg x b = s.setReg x b := by
  simp [State.setReg]

/-- The order of R84 to R86: at `VF` the flag is what remains. -/
theorem reg_resultThenFlag (x r : RegIdx) (result flag : Byte) :
    (s.resultThenFlag x result flag).reg r =
      if r = vf then flag else if r = x then result else s.reg r := by
  simp [State.resultThenFlag, reg_setReg]

/-- The order of R87 and R88: at `V[X]` the result is what remains, also where `X` is 0xF. -/
theorem reg_flagThenResult (x r : RegIdx) (flag result : Byte) :
    (s.flagThenResult x flag result).reg r =
      if r = x then result else if r = vf then flag else s.reg r := by
  simp [State.flagThenResult, reg_setReg]

end Sys2Proof.Machine
end

