-- ==== Sys2Proof/Laws/Ops.lean ====
section
/-!
SUPPORT. One lemma per shared operation that says everything it can do: the call stack, the register
transfers, the sprite drawing, the key number.
-/

namespace Sys2Proof.Machine

/-! ### The call stack -/

/-- PUSH (R66): none exactly at SP = 12; else the entry at SP is written and SP is one more. -/
theorem push_eq_some {s t : State} {w : Word} :
    s.push w = some t ↔ ∃ h : s.sp.val < 12,
      t = s.setStack (s.stack.set s.sp.val w h) ⟨s.sp.val + 1, by omega⟩ := by
  unfold State.push
  by_cases h : s.sp.val < 12
  · simp [h, eq_comm]
  · simp [h]

theorem push_eq_none {s : State} {w : Word} : s.push w = none ↔ s.sp = 12 := by
  unfold State.push
  by_cases h : s.sp.val < 12
  · simp only [h, dif_pos, reduceCtorEq, false_iff]
    intro e; rw [e] at h; exact absurd h (by decide)
  · simp only [h, dif_neg, not_false_eq_true, true_iff]
    exact Fin.ext (by have := s.sp.isLt; show s.sp.val = 12; omega)

/-- POP (R67): none exactly at SP = 0; else the entry below SP, and SP is one less. -/
theorem pop_eq_some {s t : State} {w : Word} :
    s.pop = some (w, t) ↔ ∃ _h : s.sp.val ≠ 0,
      w = s.stack[s.sp.val - 1]'(by omega) ∧ t = s.setStack s.stack ⟨s.sp.val - 1, by omega⟩ := by
  unfold State.pop
  by_cases h : s.sp.val = 0
  · simp [h]
  · simp [h, eq_comm]

theorem pop_eq_none {s : State} : s.pop = none ↔ s.sp = 0 := by
  unfold State.pop
  by_cases h : s.sp.val = 0
  · simp [h, Fin.ext_iff]
  · simp [h, Fin.ext_iff]

/-! ### Register transfers -/

/-- `FX65`'s loop: the registers below `n` come from memory, the others stay (R96). -/
theorem getElem_loadFrom (m : Memory) (base n : Nat) (v : Vector Byte 16) (r : RegIdx) :
    (loadFrom m base n v)[r] = if r.val < n then m.read (base + r.val) else v[r] := by
  induction n with
  | zero => simp [loadFrom]
  | succ n ih =>
    simp only [Fin.getElem_fin] at ih ⊢
    rw [loadFrom, Vector.getElem_setIfInBounds]
    by_cases h : n = r.val
    · subst h; simp
    · rw [if_neg h, ih]
      by_cases hr : r.val < n
      · rw [if_pos hr, if_pos (by omega)]
      · rw [if_neg hr, if_neg (by omega)]

@[simp] theorem length_regsUpTo (s : State) (x : RegIdx) : (regsUpTo s x).length = x.val + 1 := by
  simp [regsUpTo]

/-- The `k`-th byte `FX55` stores is `V[k]` (R95). -/
theorem getD_regsUpTo (s : State) (x : RegIdx) (k : RegIdx) (h : k.val ≤ x.val) :
    (regsUpTo s x).getD k.val 0 = s.reg k := by
  have hk : k.val < x.val + 1 := by omega
  simp [regsUpTo, List.getD, hk, State.reg]

/-! ### Drawing (R64) -/

/-- Every pixel of a list drawn, one after another. -/
def drawPixels (ps : List Nat) (c : Frame × Bool) : Frame × Bool := ps.foldl (fun c p => drawPixel p c) c

theorem pixel_invert (f : Frame) (p q : Nat) (hp : p < 2048) (hq : q < 2048) :
    (f.invert p).pixel q = (f.pixel q ^^ decide (q = p)) := by
  have h1 : p / 64 < 32 := by omega
  have h2 : q / 64 < 32 := by omega
  have hm : q % 64 < 64 := by omega
  simp only [Frame.invert, Frame.pixel, h1, h2, dif_pos, Vector.getElem_set]
  by_cases hr : p / 64 = q / 64
  · rw [if_pos hr]
    simp only [hr, BitVec.getLsbD_xor, BitVec.getLsbD_shiftLeft, hm, decide_true, Bool.true_and,
      BitVec.getLsbD_one]
    congr 1
    rw [Bool.eq_iff_iff]; simp; omega
  · have : q ≠ p := fun e => hr (by rw [e])
    simp [hr, this]

@[simp] theorem pixel_blank (p : Nat) : Frame.blank.pixel p = false := by
  unfold Frame.pixel Frame.blank; split_ifs <;> simp

/-- Two frames with the same 2048 pixels are the same frame. -/
theorem Frame.ext_pixel {f f' : Frame} (h : ∀ p < 2048, f.pixel p = f'.pixel p) : f = f' := by
  apply Vector.ext
  intro y hy
  apply BitVec.eq_of_getLsbD_eq
  intro x hx
  have := h (y * 64 + x) (by omega)
  simpa only [Frame.pixel, show (y * 64 + x) / 64 = y by omega, show (y * 64 + x) % 64 = x by omega, hy,
    dif_pos] using this

/-- Distinct pixels, each inverted once; the collision result is whether one of them was set. -/
theorem drawPixels_spec (ps : List Nat) (c : Frame × Bool) (hn : ps.Nodup) (hb : ∀ p ∈ ps, p < 2048) :
    (∀ q < 2048, (drawPixels ps c).1.pixel q = (c.1.pixel q ^^ decide (q ∈ ps))) ∧
      (drawPixels ps c).2 = (c.2 || ps.any fun p => c.1.pixel p) := by
  induction ps generalizing c with
  | nil => simp [drawPixels]
  | cons p ps ih =>
    rw [List.nodup_cons] at hn
    have hp : p < 2048 := hb p (by simp)
    obtain ⟨ih1, ih2⟩ := ih (drawPixel p c) hn.2 fun q hq => hb q (by simp [hq])
    have hcons : drawPixels (p :: ps) c = drawPixels ps (drawPixel p c) := rfl
    have hpix : ∀ q < 2048, (drawPixel p c).1.pixel q = (c.1.pixel q ^^ decide (q = p)) :=
      fun q hq => pixel_invert c.1 p q hp hq
    rw [hcons]
    constructor
    · intro q hq
      rw [ih1 q hq, hpix q hq]
      by_cases hqp : q = p
      · subst hqp; simp [hn.1]
      · simp [hqp]
    · rw [ih2]
      have : (ps.any fun q => (drawPixel p c).1.pixel q) = ps.any fun q => c.1.pixel q := by
        rw [Bool.eq_iff_iff, List.any_eq_true, List.any_eq_true]
        refine exists_congr fun q => and_congr_right fun hq => ?_
        have : q ≠ p := fun e => hn.1 (e ▸ hq)
        rw [hpix q (hb q (by simp [hq]))]
        simp [this]
      rw [this]
      simp [drawPixel, Bool.or_assoc]

/-- The pixels one sprite row draws. -/
def rowPixels (b : Byte) (x0 y : Nat) : List Nat :=
  ((List.range 8).filter fun k => decide (x0 + k ≤ 63 ∧ b.getLsbD (7 - k))).map fun k => y * 64 + (x0 + k)

theorem drawRow_eq (b : Byte) (x0 y : Nat) (c : Frame × Bool) :
    drawRow b x0 y c = drawPixels (rowPixels b x0 y) c := by
  rw [drawRow, drawPixels, rowPixels, List.foldl_map, List.foldl_filter]
  congr 1
  funext c k
  by_cases h : x0 + k ≤ 63 ∧ b.getLsbD (7 - k) <;> simp [h]

/-- The pixels a sprite draws, row by row. -/
def spritePixels (m : Memory) (base x0 y0 rows : Nat) : List Nat :=
  (List.range rows).flatMap fun r => rowPixels (m.read (base + r)) x0 (y0 + r)

theorem drawRows_eq (m : Memory) (base x0 y0 rows : Nat) (c : Frame × Bool) :
    drawRows m base x0 y0 rows c = drawPixels (spritePixels m base x0 y0 rows) c := by
  rw [drawRows, drawPixels, spritePixels, List.foldl_flatMap]
  congr 1
  funext c r
  exact drawRow_eq _ _ _ _

theorem mem_rowPixels {b : Byte} {x0 y p : Nat} :
    p ∈ rowPixels b x0 y ↔ ∃ k < 8, (x0 + k ≤ 63 ∧ b.getLsbD (7 - k) = true) ∧ y * 64 + (x0 + k) = p := by
  simp [rowPixels, and_assoc]

theorem mem_spritePixels {m : Memory} {base x0 y0 rows p : Nat} :
    p ∈ spritePixels m base x0 y0 rows ↔ spriteBit m base x0 y0 rows p = true := by
  simp only [spritePixels, List.mem_flatMap, List.mem_range, mem_rowPixels, spriteBit, Bool.and_eq_true,
    decide_eq_true_eq]
  constructor
  · rintro ⟨r, hr, k, hk, ⟨hx, hbit⟩, rfl⟩
    have h1 : ((y0 + r) * 64 + (x0 + k)) / 64 = y0 + r := by omega
    have h2 : ((y0 + r) * 64 + (x0 + k)) % 64 = x0 + k := by omega
    rw [h1, h2, show y0 + r - y0 = r by omega, show x0 + k - x0 = k by omega]
    exact ⟨by omega, hbit⟩
  · rintro ⟨⟨h1, h2, h3, h4⟩, hbit⟩
    refine ⟨p / 64 - y0, by omega, p % 64 - x0, by omega, ⟨by omega, hbit⟩, by omega⟩

theorem nodup_rowPixels (b : Byte) (x0 y : Nat) : (rowPixels b x0 y).Nodup := by
  refine List.Nodup.map_on ?_ (List.Nodup.filter _ List.nodup_range)
  intro k _ l _ h
  omega

theorem nodup_spritePixels (m : Memory) (base x0 y0 rows : Nat) :
    (spritePixels m base x0 y0 rows).Nodup := by
  rw [spritePixels, List.nodup_flatMap]
  refine ⟨fun r _ => nodup_rowPixels _ _ _, ?_⟩
  refine List.Pairwise.imp ?_ (List.pairwise_lt_range (n := rows))
  intro r r' hlt
  rw [Function.onFun, List.disjoint_left]
  intro p hp hp'
  obtain ⟨k, hk, ⟨hx, -⟩, rfl⟩ := mem_rowPixels.1 hp
  obtain ⟨k', hk', ⟨hx', -⟩, he⟩ := mem_rowPixels.1 hp'
  omega

/-- What drawing a sprite's rows does to each pixel of the screen, and when it collides. -/
theorem drawRows_spec (m : Memory) (base x0 y0 rows : Nat) (c : Frame × Bool) (hy : y0 + rows ≤ 32) :
    (∀ p < 2048, (drawRows m base x0 y0 rows c).1.pixel p =
      (c.1.pixel p ^^ spriteBit m base x0 y0 rows p)) ∧
    ((drawRows m base x0 y0 rows c).2 = true ↔
      c.2 = true ∨ ∃ p < 2048, c.1.pixel p = true ∧ spriteBit m base x0 y0 rows p = true) := by
  have hbound : ∀ p ∈ spritePixels m base x0 y0 rows, p < 2048 := by
    intro p hp
    have := mem_spritePixels.1 hp
    simp only [spriteBit, Bool.and_eq_true, decide_eq_true_eq] at this
    omega
  obtain ⟨h1, h2⟩ := drawPixels_spec _ c (nodup_spritePixels m base x0 y0 rows) hbound
  rw [drawRows_eq]
  constructor
  · intro p hp
    rw [h1 p hp]
    congr 1
    rw [Bool.eq_iff_iff, decide_eq_true_eq, mem_spritePixels]
  · rw [h2, Bool.or_eq_true, List.any_eq_true]
    refine or_congr_right ⟨?_, ?_⟩
    · rintro ⟨p, hp, hc⟩; exact ⟨p, hbound p hp, hc, mem_spritePixels.1 hp⟩
    · rintro ⟨p, -, hc, hp⟩; exact ⟨p, mem_spritePixels.2 hp, hc⟩

/-- The drawn rows end on the screen (R64). -/
theorem drawnRows_le (n : Fin 16) (vy : Byte) : originY vy + drawnRows n vy ≤ 32 := by
  simp only [drawnRows, originY, Config.displayHeight]; omega

/-! ### The key number -/

theorem keyNumber_eq_none {vx : Byte} : keyNumber vx = none ↔ vx.toNat > 0xF := by
  unfold keyNumber; split_ifs with h <;> simp <;> omega

theorem keyNumber_eq_some {vx : Byte} {k : KeyIdx} : keyNumber vx = some k ↔ vx.toNat = k.val := by
  unfold keyNumber
  split_ifs with h
  · simp [Fin.ext_iff]
  · simp; omega

end Sys2Proof.Machine
end

