-- ==== Sys2Proof/Laws/PerInstr.lean ====
section
/-!
SUPPORT. Statements for all instructions, made per instruction. `TableRow`: an instruction's opcode word
has the fixed bits of its row in spec/opcode_table.json.
-/

namespace Sys2Proof.Laws

/-- Masking a concatenation masks its parts. -/
theorem append_and {m n : Nat} (a c : BitVec m) (b d : BitVec n) :
    (a ++ b) &&& (c ++ d) = (a &&& c) ++ (b &&& d) := by
  ext i hi
  simp only [BitVec.getElem_and, BitVec.getElem_append]
  split_ifs <;> rfl

theorem layoutNNN_and (op : BitVec 4) (nnn : Addr) : layoutNNN op nnn &&& 0xF000 = op ++ 0#12 := by
  refine (append_and op 0xF#4 nnn 0#12).trans ?_
  rw [BitVec.and_zero, show op &&& 0xF#4 = op from BitVec.and_allOnes]

theorem layoutXNN_and_major (op : BitVec 4) (x : RegIdx) (nn : Byte) :
    layoutXNN op x nn &&& 0xF000 = op ++ 0#12 := layoutNNN_and op _

theorem layoutXNN_and_selector (op : BitVec 4) (x : RegIdx) (nn : Byte) :
    layoutXNN op x nn &&& 0xF0FF = op ++ (0#4 ++ nn : BitVec 12) := by
  refine (append_and op 0xF#4 _ 0x0FF#12).trans ?_
  rw [show op &&& 0xF#4 = op from BitVec.and_allOnes]
  refine congrArg (op ++ ·) ((append_and _ 0#4 nn 0xFF#8).trans ?_)
  rw [BitVec.and_zero, show nn &&& 0xFF#8 = nn from BitVec.and_allOnes]

theorem layoutXYN_and_major (op : BitVec 4) (x y : RegIdx) (n : BitVec 4) :
    layoutXYN op x y n &&& 0xF000 = op ++ 0#12 := layoutNNN_and op _

theorem layoutXYN_and_selector (op : BitVec 4) (x y : RegIdx) (n : BitVec 4) :
    layoutXYN op x y n &&& 0xF00F = op ++ (0#4 ++ (0#4 ++ n : BitVec 8) : BitVec 12) := by
  refine (append_and op 0xF#4 _ 0x00F#12).trans ?_
  rw [show op &&& 0xF#4 = op from BitVec.and_allOnes]
  refine congrArg (op ++ ·) ((append_and _ 0#4 _ 0x0F#8).trans ?_)
  rw [BitVec.and_zero]
  refine congrArg (0#4 ++ ·) ((append_and _ 0#4 n 0xF#4).trans ?_)
  rw [BitVec.and_zero, show n &&& 0xF#4 = n from BitVec.and_allOnes]

namespace TableRow

/-- The fixed bits of the instruction's row, by its `mask` and `match`. -/
def Statement (i : Instr) : Prop := i.row.fits (encode i)

theorem cls : Statement .cls := rfl
theorem ret : Statement .ret := rfl
theorem jp (nnn : Addr) : Statement (.jp nnn) := layoutNNN_and _ _
theorem call (nnn : Addr) : Statement (.call nnn) := layoutNNN_and _ _
theorem seImm (x : RegIdx) (nn : Byte) : Statement (.seImm x nn) := layoutXNN_and_major _ _ _
theorem sneImm (x : RegIdx) (nn : Byte) : Statement (.sneImm x nn) := layoutXNN_and_major _ _ _
theorem seReg (x : RegIdx) (y : RegIdx) : Statement (.seReg x y) := layoutXYN_and_selector _ _ _ _
theorem ldImm (x : RegIdx) (nn : Byte) : Statement (.ldImm x nn) := layoutXNN_and_major _ _ _
theorem addImm (x : RegIdx) (nn : Byte) : Statement (.addImm x nn) := layoutXNN_and_major _ _ _
theorem ldReg (x : RegIdx) (y : RegIdx) : Statement (.ldReg x y) := layoutXYN_and_selector _ _ _ _
theorem orReg (x : RegIdx) (y : RegIdx) : Statement (.orReg x y) := layoutXYN_and_selector _ _ _ _
theorem andReg (x : RegIdx) (y : RegIdx) : Statement (.andReg x y) := layoutXYN_and_selector _ _ _ _
theorem xorReg (x : RegIdx) (y : RegIdx) : Statement (.xorReg x y) := layoutXYN_and_selector _ _ _ _
theorem addReg (x : RegIdx) (y : RegIdx) : Statement (.addReg x y) := layoutXYN_and_selector _ _ _ _
theorem subReg (x : RegIdx) (y : RegIdx) : Statement (.subReg x y) := layoutXYN_and_selector _ _ _ _
theorem shrReg (x : RegIdx) (y : RegIdx) : Statement (.shrReg x y) := layoutXYN_and_selector _ _ _ _
theorem subnReg (x : RegIdx) (y : RegIdx) : Statement (.subnReg x y) := layoutXYN_and_selector _ _ _ _
theorem shlReg (x : RegIdx) (y : RegIdx) : Statement (.shlReg x y) := layoutXYN_and_selector _ _ _ _
theorem sneReg (x : RegIdx) (y : RegIdx) : Statement (.sneReg x y) := layoutXYN_and_selector _ _ _ _
theorem ldI (nnn : Addr) : Statement (.ldI nnn) := layoutNNN_and _ _
theorem jpV0 (nnn : Addr) : Statement (.jpV0 nnn) := layoutNNN_and _ _
theorem rnd (x : RegIdx) (nn : Byte) : Statement (.rnd x nn) := layoutXNN_and_major _ _ _
theorem drw (x : RegIdx) (y : RegIdx) (n : Fin 16) : Statement (.drw x y n) := layoutXYN_and_major _ _ _ _
theorem skp (x : RegIdx) : Statement (.skp x) := layoutXNN_and_selector _ _ _
theorem sknp (x : RegIdx) : Statement (.sknp x) := layoutXNN_and_selector _ _ _
theorem ldVxDt (x : RegIdx) : Statement (.ldVxDt x) := layoutXNN_and_selector _ _ _
theorem ldDtVx (x : RegIdx) : Statement (.ldDtVx x) := layoutXNN_and_selector _ _ _
theorem ldStVx (x : RegIdx) : Statement (.ldStVx x) := layoutXNN_and_selector _ _ _
theorem addI (x : RegIdx) : Statement (.addI x) := layoutXNN_and_selector _ _ _
theorem ldF (x : RegIdx) : Statement (.ldF x) := layoutXNN_and_selector _ _ _
theorem ldB (x : RegIdx) : Statement (.ldB x) := layoutXNN_and_selector _ _ _
theorem storeRegs (x : RegIdx) : Statement (.storeRegs x) := layoutXNN_and_selector _ _ _
theorem loadRegs (x : RegIdx) : Statement (.loadRegs x) := layoutXNN_and_selector _ _ _
theorem unrecognized (w : Word) : Statement (.unrecognized w) := BitVec.and_zero

end TableRow

end Sys2Proof.Laws
end

