-- ==== Sys2Proof/Laws/Step.lean ====
section
/-!
SUPPORT. What `raise`, the stores at `I`, a STEP and a run of steps can do, one lemma each.
-/

namespace Sys2Proof.Machine

/-! ### Taking a fault, and storing at `I` -/

@[simp] theorem raise_eq (c : FaultCode) (s : State) : raise c s = .next (s.enterFault c (s.pc - 2)) := rfl

/-- A store at `I` writes all its bytes, or takes ADDRESS_RANGE having written none (R37). -/
theorem storeAtI_eq (s : State) (bytes : List Byte) :
    storeAtI s bytes =
      if ∀ k < bytes.length, s.base + k ≤ 0xFFF then .next (s.setMem (writeBytes s.mem s.base bytes))
      else .next (s.enterFault .addressRange (s.pc - 2)) := by
  unfold storeAtI
  by_cases h : rangeOk s.base bytes.length = true
  · rw [if_pos h, if_pos ((rangeOk_iff s.base bytes.length).1 h)]
  · rw [if_neg h, if_neg fun h' => h ((rangeOk_iff s.base bytes.length).2 h'), raise_eq]

/-! ### A STEP -/

theorem cycle_of_fetch {s : State} {w : Word} (b : Byte) (hs : s.status = .ok)
    (hw : fetch s.mem s.pc = some w) : cycle b s = exec (decode w) (s.latchRnd b).advance := by
  unfold cycle; rw [hs]; simp only [hw]

theorem cycle_of_no_fetch {s : State} (b : Byte) (hs : s.status = .ok)
    (hw : fetch s.mem s.pc = none) :
    cycle b s = .next ((s.latchRnd b).enterFault .addressRange s.pc) := by
  unfold cycle; rw [hs]; simp only [hw]

theorem cycle_of_halted {s : State} (b : Byte) (hs : s.status ≠ .ok) : cycle b s = .next s := by
  unfold cycle; split
  · contradiction
  · rfl
  · rfl

/-! ### Runs and schedules -/

@[simp] theorem run_zero (s : State) : Sys2Proof.core.run 0 s = .next s := rfl

theorem run_succ {s t : State} (n : Nat) (h : step s = .next t) :
    Sys2Proof.core.run (n + 1) s = Sys2Proof.core.run n t := by
  have hs : Host.Core.step Sys2Proof.core s = .next t := h
  refine (Host.Core.run.eq_2 Sys2Proof.core s n).trans ?_
  rw [hs]

theorem runSchedule_cons {g : Config.Glyphs} {op : HostOp} {ops : List HostOp} {s t u : State} {r : Reply}
    {rs : List Reply} (h : perform g op s = .next (t, r)) (h' : runSchedule g ops t = .next (u, rs)) :
    runSchedule g (op :: ops) s = .next (u, r :: rs) := by
  simp [runSchedule, h, h']

/-- The STEP of the host interface is `cycle`, and it returns the STATUS it leaves. -/
theorem perform_step {b : Byte} {s t : State} (g : Config.Glyphs) (h : cycle b s = .next t) :
    perform g (.step b) s = .next (t, .status t.status) := by
  simp [perform, h]

/-- A schedule is its first part, then the rest. -/
theorem runSchedule_append {g : Config.Glyphs} {first rest : List HostOp} {s t u : State}
    {rs rs' : List Reply} (h : runSchedule g first s = .next (t, rs))
    (h' : runSchedule g rest t = .next (u, rs')) :
    runSchedule g (first ++ rest) s = .next (u, rs ++ rs') := by
  induction first generalizing s rs with
  | nil => simp only [runSchedule, Host.Outcome.next.injEq, Prod.mk.injEq] at h; simpa [← h.1, ← h.2] using h'
  | cons op ops ih =>
    simp only [runSchedule] at h
    split at h <;> try contradiction
    split at h <;> try contradiction
    next hp _ _ _ hr =>
      cases h
      exact runSchedule_cons hp (ih hr)

/-! ### A parked state -/

/-- What a STEP of a parked state does: the block stays, only the draw fields move (R117). -/
theorem cycle_of_parked {s : State} (b : Byte) (h : s.Parked) : cycle b s = .next (s.latchRnd b) := by
  obtain ⟨hs, w, nnn, hw, hd, hpc⟩ := h
  rw [cycle_of_fetch b hs hw, hd]
  show Host.Outcome.next ((s.latchRnd b).advance.setPc (addressOf nnn)) = _
  rw [hpc]; rfl

/-! ### The word placed for a fetch -/

/-- A placed word is the word the next fetch reads. -/
theorem fetch_placeWord (s : State) (w : Word) : fetch (s.placeWord w).mem (s.placeWord w).pc = some w := by
  have hf : s.fetchable.toNat ≤ 0xFFE := by
    unfold State.fetchable; split_ifs
    · decide
    · omega
  show fetch (writeBytes s.mem s.fetchable.toNat [highByte w, lowByte w]) s.fetchable = some w
  rw [fetch_eq, if_pos hf, read_writeBytes, read_writeBytes, if_pos (by simp), if_pos (by simp)]
  simp

end Sys2Proof.Machine
end

