-- ==== Sys2Proof/Tests/Slice0.lean ====
section
/-!
SUPPORT. The model's own tests. Expected results are those of spec/95_test_vectors.md (its vector's name
stands in each comment) or the examples of the instruction's rule; words are written out from
spec/30_encoding.md and spec/opcode_table.json. The last part shows, for every statement with hypotheses, a
state and operands that meet them, at the boundaries of their ranges.
-/

namespace Sys2Proof.Tests

open Sys2Proof Sys2Proof.Machine

/-! ### Helpers -/

/-- Power-on with some registers set. -/
def withRegs (rs : List (RegIdx × Byte)) : State := rs.foldl (fun s r => s.setReg r.1 r.2) State.reset

/-- What is seen after one STEP that fetches the word `w`, with the byte `rnd` = 0xB7. -/
def after {α : Type} (s : State) (w : Word) (look : State → α) : Option α :=
  match cycle 0xB7 (s.placeWord w) with
  | .next t => some (look t)
  | .fault _ => none
  | .refused _ => none

/-- What is seen after an outcome that is a next state. -/
def seen {α : Type} (o : Host.Outcome State Fault Refusal) (look : State → α) : Option α :=
  match o with
  | .next t => some (look t)
  | .fault _ => none
  | .refused _ => none

/-- Power-on with the stack full of 0x0202, as at the end of program P5. -/
def fullStack : State := State.reset.setStack (Vector.replicate 12 0x0202) 12

/-- Power-on halted by a stack underflow, as in vector T5. -/
def haltedState : State := (State.reset.setPc 0x202).enterFault .stackUnderflow 0x200

/-! ### Well-formedness: the one check, and terms it refuses -/

theorem test_wf_refuses_named_words :
    (Instr.unrecognized 0x00E0).wf = false ∧ (Instr.unrecognized 0x1234).wf = false ∧
    (Instr.unrecognized 0x5120).wf = false ∧ (Instr.unrecognized 0x812E).wf = false ∧
    (Instr.unrecognized 0x9120).wf = false ∧ (Instr.unrecognized 0xE19E).wf = false ∧
    (Instr.unrecognized 0xF165).wf = false := by decide

theorem test_wf_accepts_unrecognized_words :
    (Instr.unrecognized 0x0123).wf = true ∧ (Instr.unrecognized 0x5121).wf = true ∧
    (Instr.unrecognized 0x8128).wf = true ∧ (Instr.unrecognized 0x9121).wf = true ∧
    (Instr.unrecognized 0xE19F).wf = true ∧ (Instr.unrecognized 0xF00A).wf = true := by decide

/-! ### Decoding: every constructor, by a word written out bit by bit -/

theorem test_decode_display :
    decode 0b0000_0000_1110_0000 = .cls ∧ decode 0b1101_0001_0010_1010 = .drw 1 2 10 := by decide

theorem test_decode_control_flow :
    decode 0b0000_0000_1110_1110 = .ret ∧ decode 0b0001_0010_0011_0100 = .jp 0x234 ∧
    decode 0b0010_1111_0000_0001 = .call 0xF01 ∧ decode 0b1011_0011_0000_0000 = .jpV0 0x300 ∧
    decode 0b0011_0011_0100_0010 = .seImm 3 0x42 ∧ decode 0b0100_1110_1000_0001 = .sneImm 14 0x81 ∧
    decode 0b0101_0001_0010_0000 = .seReg 1 2 ∧ decode 0b1001_1101_0010_0000 = .sneReg 13 2 := by decide

theorem test_decode_register :
    decode 0b0110_1010_0011_1100 = .ldImm 10 0x3C ∧ decode 0b0111_0000_1111_1111 = .addImm 0 0xFF ∧
    decode 0b1000_0001_0101_0000 = .ldReg 1 5 ∧ decode 0b1100_0011_0000_1111 = .rnd 3 0x0F := by decide

theorem test_decode_alu :
    decode 0b1000_0001_0010_0001 = .orReg 1 2 ∧ decode 0b1000_0001_0010_0010 = .andReg 1 2 ∧
    decode 0b1000_0001_0010_0011 = .xorReg 1 2 ∧ decode 0b1000_1111_0001_0100 = .addReg 15 1 ∧
    decode 0b1000_0001_0010_0101 = .subReg 1 2 ∧ decode 0b1000_0001_1111_0110 = .shrReg 1 15 ∧
    decode 0b1000_0001_0010_0111 = .subnReg 1 2 ∧ decode 0b1000_0001_0010_1110 = .shlReg 1 2 := by decide

theorem test_decode_index_memory :
    decode 0b1010_0010_1111_0000 = .ldI 0x2F0 ∧ decode 0b1111_0100_0001_1110 = .addI 4 ∧
    decode 0b1111_1010_0010_1001 = .ldF 10 ∧ decode 0b1111_0101_0011_0011 = .ldB 5 ∧
    decode 0b1111_0001_0101_0101 = .storeRegs 1 ∧ decode 0b1111_0010_0110_0101 = .loadRegs 2 := by decide

theorem test_decode_keypad_timers :
    decode 0b1110_0001_1001_1110 = .skp 1 ∧ decode 0b1110_0001_1010_0001 = .sknp 1 ∧
    decode 0b1111_0011_0000_0111 = .ldVxDt 3 ∧ decode 0b1111_0011_0001_0101 = .ldDtVx 3 ∧
    decode 0b1111_0011_0001_1000 = .ldStVx 3 := by decide

/-- Section 2.2 of the vectors: near misses of every family. -/
theorem test_decode_unrecognized :
    decode 0x0123 = .unrecognized 0x0123 ∧ decode 0x00E1 = .unrecognized 0x00E1 ∧
    decode 0x5121 = .unrecognized 0x5121 ∧ decode 0x9121 = .unrecognized 0x9121 ∧
    decode 0x812F = .unrecognized 0x812F ∧ decode 0xE19F = .unrecognized 0xE19F ∧
    decode 0xF00A = .unrecognized 0xF00A ∧ decode 0xF085 = .unrecognized 0xF085 := by decide

theorem test_decode_short_lists :
    decodeBytes [] = .error .noBytes ∧ decodeBytes [0x60] = .error .oneByte ∧
    decodeTableWord 16 0xD015 = some (.drw 0 1 5) ∧ decodeTableWord 17 0xD015 = none := by decide

/-! ### The step (section 2.1) -/

/-- T1: the word 0x0000 at 0xFFE leaves PC = 0x1000. -/
theorem test_step_last_word :
    seen (cycle 0 (State.reset.setPc 0xFFE)) (fun t => (t.pc, t.status)) = some (0x1000, .ok) := by decide

/-- T2, T3: fetches at 0x1000 and 0xFFF fault, PC unchanged. -/
theorem test_fetch_faults :
    seen (cycle 0 (State.reset.setPc 0x1000)) (fun t => (t.status, t.faultPc, t.pc)) =
      some (.fault .addressRange, 0x1000, 0x1000) ∧
    seen (cycle 0 (State.reset.setPc 0xFFF)) (fun t => (t.status, t.faultPc, t.pc)) =
      some (.fault .addressRange, 0xFFF, 0xFFF) := by decide

/-- T4: an odd PC fetches MEM[0x201] and MEM[0x202]. -/
theorem test_odd_pc :
    after (State.reset.setPc 0x201) 0x6042 (fun t => (t.reg 0, t.pc)) = some (0x42, 0x203) := by decide

/-- T5: a halted block changes nothing. -/
theorem test_halted_step : seen (cycle 0x55 haltedState) (fun t => decide (t = haltedState)) = some true := by
  decide

/-- The step's own byte is the environment's: the rest of the state does not depend on it. -/
theorem test_step_runs_placed_word :
    seen (step (State.reset.withFetchWord 16 0x6A3C)) (fun t => (t.reg 0xA, t.pc)) = some (0x3C, 0x202) := by
  decide

/-! ### Display (section 2.3) -/

/-- D1: glyph 0 at (0, 0): rows F0 90 90 90 F0, bit 7 leftmost, VF = 0. -/
theorem test_drw_glyph0 :
    after (withRegs []) 0xD015
      (fun t => (t.reg 15, [0, 1, 2, 3, 4, 5].map fun y => t.fb.toList.getD y 0)) =
      some (0, [0xF, 0x9, 0x9, 0x9, 0xF, 0]) := by decide

/-- D7 on a set pixel: origin (62, 31), clipped at both edges, collision at pixel 2046. -/
theorem test_drw_clips_and_collides :
    after ((withRegs [(0, 0x7E), (1, 0x3F)]).setFb (Frame.blank.invert 2046)) 0xD015
      (fun t => (t.reg 15, t.pixel 2046, t.pixel 2047, t.pixel 1984, t.pixel 0)) =
      some (1, false, true, false, false) := by decide

/-- D12: every pixel off. -/
theorem test_cls : after (State.reset.setFb (Frame.blank.invert 67)) 0x00E0 (fun t => t.pixel 67) = some false := by
  decide

/-! ### Control flow (section 2.4) -/

/-- C3: the pushed value is the advanced PC. -/
theorem test_call :
    after (State.reset.setPc 0x202) 0x2300 (fun t => (t.stack[0], t.sp, t.pc)) = some (0x204, 1, 0x300) := by decide

/-- C4: the thirteenth nested call faults. -/
theorem test_call_overflow :
    after fullStack 0x2300 (fun t => (t.status, t.faultPc, t.pc, t.sp)) =
      some (.fault .stackOverflow, 0x200, 0x202, 12) := by decide

/-- C6: the entry stays where it was. -/
theorem test_ret :
    after ((State.reset.setStack (Vector.replicate 12 0x204) 1).setPc 0x300) 0x00EE
      (fun t => (t.pc, t.sp, t.stack[0])) = some (0x204, 0, 0x204) := by decide

/-- C5. -/
theorem test_ret_underflow :
    after State.reset 0x00EE (fun t => (t.status, t.faultPc, t.pc, t.sp)) =
      some (.fault .stackUnderflow, 0x200, 0x202, 0) := by decide

/-- C1. -/
theorem test_jp : after State.reset 0x1234 (fun t => t.pc) = some 0x234 := by decide

/-- C9: the target is not reduced to 12 bits. -/
theorem test_jpV0 : after (withRegs [(0, 0xFF)]) 0xBFFF (fun t => t.pc) = some 0x10FE := by decide

/-- C10, C11. -/
theorem test_seImm :
    after (withRegs [(3, 0x42)]) 0x3342 (fun t => t.pc) = some 0x204 ∧
    after (withRegs [(3, 0x41)]) 0x3342 (fun t => t.pc) = some 0x202 := by decide

/-- C13, C14. -/
theorem test_sneImm :
    after (withRegs [(3, 0x41)]) 0x4342 (fun t => t.pc) = some 0x204 ∧
    after (withRegs [(3, 0x42)]) 0x4342 (fun t => t.pc) = some 0x202 := by decide

/-- C15, C16. -/
theorem test_seReg :
    after (withRegs [(1, 7), (2, 7)]) 0x5120 (fun t => t.pc) = some 0x204 ∧
    after (withRegs [(1, 7), (2, 8)]) 0x5120 (fun t => t.pc) = some 0x202 := by decide

/-- C18, C19. -/
theorem test_sneReg :
    after (withRegs [(1, 7), (2, 8)]) 0x9120 (fun t => t.pc) = some 0x204 ∧
    after (withRegs [(1, 7)]) 0x9110 (fun t => t.pc) = some 0x202 := by decide

/-- Section 2.2: 5121 with V1 = V2 does not skip. -/
theorem test_unrecognized : after State.reset 0x5121 (fun t => (t.pc, t.status)) = some (0x202, .ok) := by decide

/-! ### ALU (section 2.5) -/

/-- A1, A2. -/
theorem test_ldImm :
    after State.reset 0x6A3C (fun t => t.reg 0xA) = some 0x3C ∧
    after State.reset 0x6F77 (fun t => t.reg 0xF) = some 0x77 := by decide

/-- A3: no carry. -/
theorem test_addImm :
    after (withRegs [(0, 1), (15, 9)]) 0x70FF (fun t => (t.reg 0, t.reg 15)) = some (0, 9) := by decide

/-- A4. -/
theorem test_ldReg : after (withRegs [(5, 0x99)]) 0x8150 (fun t => (t.reg 1, t.reg 5)) = some (0x99, 0x99) := by
  decide

/-- A5: VF is not reset. -/
theorem test_orReg :
    after (withRegs [(0, 0x0F), (1, 0xF0), (15, 7)]) 0x8011 (fun t => (t.reg 0, t.reg 15)) = some (0xFF, 7) := by decide

/-- A6: VF is not reset. -/
theorem test_andReg :
    after (withRegs [(1, 0x3C), (2, 0x0F), (15, 7)]) 0x8122 (fun t => (t.reg 1, t.reg 15)) = some (0x0C, 7) := by decide

/-- A7. -/
theorem test_xorReg :
    after (withRegs [(1, 0x3C), (2, 0x0F), (15, 7)]) 0x8123 (fun t => (t.reg 1, t.reg 15)) = some (0x33, 7) := by decide

/-- A9, A10: 256 carries, 255 does not. -/
theorem test_addReg :
    after (withRegs [(0, 0xFF), (1, 1)]) 0x8014 (fun t => (t.reg 0, t.reg 15)) = some (0, 1) ∧
    after (withRegs [(0, 0x80), (1, 0x7F)]) 0x8014 (fun t => (t.reg 0, t.reg 15)) = some (0xFF, 0) := by decide

/-- A13, A14: the flag wins at X = F, and Y = F adds the old VF. -/
theorem test_addReg_vf :
    after (withRegs [(15, 0x10), (1, 0x01)]) 0x8F14 (fun t => t.reg 15) = some 0 ∧
    after (withRegs [(0, 0x10), (15, 0xF0)]) 0x80F4 (fun t => (t.reg 0, t.reg 15)) = some (0, 1) := by decide

/-- S3, A15. -/
theorem test_subReg :
    after (withRegs [(0, 5), (1, 0x0A)]) 0x8015 (fun t => (t.reg 0, t.reg 15)) = some (0xFB, 0) ∧
    after (withRegs [(0, 5), (1, 5)]) 0x8015 (fun t => (t.reg 0, t.reg 15)) = some (0, 1) := by decide

/-- A18, A19. -/
theorem test_subnReg :
    after (withRegs [(0, 0x0A), (1, 5)]) 0x8017 (fun t => (t.reg 0, t.reg 15)) = some (0xFB, 0) ∧
    after (withRegs [(0, 5), (1, 0x0A)]) 0x8017 (fun t => (t.reg 0, t.reg 15)) = some (5, 1) := by decide

/-- A20, A22: the source is VY, and at X = F the result wins. -/
theorem test_shrReg :
    after (withRegs [(0, 0xAA), (1, 5)]) 0x8016 (fun t => (t.reg 0, t.reg 15, t.reg 1)) = some (2, 1, 5) ∧
    after (withRegs [(1, 5)]) 0x8F16 (fun t => t.reg 15) = some 2 := by decide

/-- A23: at Y = F the source is the old VF. -/
theorem test_shrReg_old_vf :
    after (withRegs [(15, 3)]) 0x81F6 (fun t => (t.reg 1, t.reg 15)) = some (1, 1) := by decide

/-- A24, A26. -/
theorem test_shlReg :
    after (withRegs [(1, 0x81)]) 0x801E (fun t => (t.reg 0, t.reg 15)) = some (2, 1) ∧
    after (withRegs [(1, 0x81)]) 0x8F1E (fun t => t.reg 15) = some 2 := by decide

/-- A28, A30. -/
theorem test_rnd :
    after State.reset 0xC30F (fun t => t.reg 3) = some 0x07 ∧
    after State.reset 0xC3FF (fun t => t.reg 3) = some 0xB7 := by decide

/-! ### Index register and memory (section 2.6) -/

/-- M1. -/
theorem test_ldI : after State.reset 0xA2F0 (fun t => t.i) = some 0x2F0 := by decide

/-- M3, M4: not reduced to 12 bits, and the 16-bit wrap. -/
theorem test_addI :
    after ((withRegs [(0, 1)]).setI 0x0FFF) 0xF01E (fun t => (t.i, t.reg 15)) = some (0x1000, 0) ∧
    after ((withRegs [(0, 1)]).setI 0xFFFF) 0xF01E (fun t => (t.i, t.reg 15)) = some (0, 0) := by decide

/-- M5, M8. -/
theorem test_ldF :
    after (withRegs [(0xA, 0x0A)]) 0xFA29 (fun t => t.i) = some 0x32 ∧
    after (withRegs [(0, 0xFF)]) 0xF029 (fun t => t.i) = some 0x4FB := by decide

/-- M9, and M13: out of range. -/
theorem test_ldB :
    after ((withRegs [(5, 0x7B)]).setI 0x300) 0xF533 (fun t => (t.mem, t.i)) =
      some ([(0x200, 0xF5), (0x201, 0x33), (0x300, 1), (0x301, 2), (0x302, 3)], 0x300) ∧
    after ((withRegs [(0, 0xFF)]).setI 0xFFE) 0xF033 (fun t => (t.status, t.faultPc, t.pc, t.mem)) =
      some (.fault .addressRange, 0x200, 0x202, [(0x200, 0xF0), (0x201, 0x33)]) := by decide

/-- M15, M16. -/
theorem test_storeRegs :
    after ((withRegs [(0, 1), (15, 0xEE)]).setI 0xFF0) 0xFF55
      (fun t => (t.mem.read 0xFF0, t.mem.read 0xFFE, t.mem.read 0xFFF, t.i)) = some (1, 0, 0xEE, 0xFF0) ∧
    after ((withRegs [(0, 1)]).setI 0xFF1) 0xFF55 (fun t => (t.status, t.mem)) =
      some (.fault .addressRange, [(0x200, 0xFF), (0x201, 0x55)]) := by decide

/-- M17, M18 (default font). -/
theorem test_loadRegs :
    after (withRegs [(1, 0x11)]) 0xF065 (fun t => (t.reg 0, t.reg 1)) = some (0xF0, 0x11) ∧
    after State.reset 0xFF65 (fun t => t.v.toList) =
      some [0xF0, 0x90, 0x90, 0x90, 0xF0, 0x20, 0x60, 0x20, 0x20, 0x70, 0xF0, 0x10, 0xF0, 0x80, 0xF0, 0xF0] := by
  decide

/-! ### Keypad and timers (section 2.7) -/

/-- K1, K5. -/
theorem test_skp :
    after ((withRegs [(1, 0x0A)]).keySet 0xA true) 0xE19E (fun t => t.pc) = some 0x204 ∧
    after (withRegs [(0, 0x10)]) 0xE09E (fun t => (t.status, t.faultPc, t.pc)) =
      some (.fault .keyRange, 0x200, 0x202) := by decide

/-- K3, K4. -/
theorem test_sknp :
    after (withRegs [(1, 0x0A)]) 0xE1A1 (fun t => t.pc) = some 0x204 ∧
    after ((withRegs [(1, 0x0A)]).keySet 0xA true) 0xE1A1 (fun t => t.pc) = some 0x202 := by decide

/-- K7. -/
theorem test_ldVxDt : after (State.reset.setDt 0x3C) 0xF307 (fun t => (t.reg 3, t.dt)) = some (0x3C, 0x3C) := by decide

/-- K8. -/
theorem test_ldDtVx : after (withRegs [(3, 0x3C)]) 0xF315 (fun t => (t.dt, t.st)) = some (0x3C, 0) := by decide

/-- K9. -/
theorem test_ldStVx : after (withRegs [(3, 5)]) 0xF318 (fun t => (t.st, t.dt)) = some (5, 0) := by decide

/-- T6, K11: TICK works while halted and never underflows. -/
theorem test_tick :
    ((haltedState.setDt 5).setSt 1).tick.dt = 4 ∧ ((haltedState.setDt 5).setSt 1).tick.st = 0 ∧
    State.reset.tick.dt = 0 := by decide

/-- L1 on a short image: it goes to 0x200, zeros after it. -/
theorem test_load_copies_the_image :
    let m := loadedMemory Config.defaultGlyphs [0x12, 0x34]
    m.read 0x200 = 0x12 ∧ m.read 0x201 = 0x34 ∧ m.read 0x202 = 0 ∧ m.read 0x1FF = 0 := by
  simp only [read_loadedMemory]; decide

/-- L3: an unreadable source is code 5, a readable image code 0. -/
theorem test_load_status :
    (haltedState.load Config.defaultGlyphs [0x12] false).status.code = 5 ∧
    (haltedState.load Config.defaultGlyphs [0x12] true).status.code = 0 := ⟨rfl, rfl⟩

/-! ### Witnesses: states and operands that meet the hypotheses of each statement

Each theorem names its statement. A hypothesis `exec i s = .next t` or `step s = .next t` is met by the `t`
shown; the clauses of a statement are each met, at the ends of their ranges. -/

theorem witness_DecodeOfEncode : (Instr.drw 15 15 15).wf = true ∧ (Instr.unrecognized 0xFFFF).wf = true := by decide

theorem witness_DecodeFollowsOpcodeTable :
    (∃ r ∈ opcodeRows, r.bits = 0xF065 &&& r.mask) ∧ (∀ r ∈ opcodeRows, 0xFFFF &&& r.mask ≠ r.bits) := by decide

theorem witness_FetchReadsBigEndian : (0xFFE#16).toNat ≤ 0xFFE ∧ 0xFFE < (0xFFF#16).toNat := by decide

theorem witness_StepRunsTheDecodedInstruction :
    let s := (State.reset.setPc 0xFFE).placeWord 0x00E0
    s.status = .ok ∧ s.pc.toNat ≤ 0xFFE ∧
      decodeBytes [s.mem.read s.pc.toNat, s.mem.read (s.pc.toNat + 1)] = .ok (.cls, []) := by decide

theorem witness_FetchFaultIsTaken :
    (State.reset.setPc 0xFFF).status = .ok ∧ 0xFFE < (State.reset.setPc 0xFFF).pc.toNat := by decide

theorem witness_HaltedIsFinalWithoutLoad :
    haltedState.status ≠ .ok ∧ NoLoad [.step 1, .tick] := ⟨by decide, by simp [NoLoad]⟩

theorem witness_FaultsArePrecise :
    State.reset.status = .ok ∧ (State.reset.placeWord 0x00EE).status = .ok ∧
      seen (step (State.reset.placeWord 0x00EE)) (fun t => decide (t.status ≠ .ok)) = some true ∧
      seen (step (State.reset.setPc 0xFFFF)) (fun t => decide (t.status ≠ .ok)) = some true := by decide

/-- Each cause of each fault, at its boundary. -/
theorem witness_FaultsHaveTheListedCauses :
    seen (exec (.call 0) fullStack) (·.status) = some (.fault .stackOverflow) ∧
    seen (exec .ret State.reset) (·.status) = some (.fault .stackUnderflow) ∧
    seen (exec (.skp 0) (withRegs [(0, 0x10)])) (·.status) = some (.fault .keyRange) ∧
    seen (exec (.sknp 0) (withRegs [(0, 0x0F)])) (·.status) = some .ok ∧
    seen (exec (.drw 0 1 2) (State.reset.setI 0xFFF)) (·.status) = some (.fault .addressRange) ∧
    seen (exec (.drw 0 1 1) (State.reset.setI 0xFFF)) (·.status) = some .ok ∧
    seen (exec (.drw 0 1 0) (State.reset.setI 0xFFFF)) (·.status) = some .ok ∧
    seen (exec (.ldB 0) (State.reset.setI 0xFFE)) (·.status) = some (.fault .addressRange) ∧
    seen (exec (.storeRegs 15) (State.reset.setI 0xFF1)) (·.status) = some (.fault .addressRange) ∧
    seen (exec (.loadRegs 0) (State.reset.setI 0xFFF)) (·.status) = some .ok := by decide

/-- A running state with a return address in use meets the invariant, and steps. -/
theorem witness_StepKeepsTheInvariant :
    let s := (State.reset.setStack (Vector.replicate 12 0x1000) 1).placeWord 0x00EE
    s.Inv ∧ seen (step s) (·.pc) = some 0x1000 := by
  refine ⟨⟨by decide, fun _ => ⟨by decide, by decide, ?_⟩⟩, by decide⟩
  intro c hc; cases hc

/-- A halted state and a state after a failed LOAD meet the invariant too: a schedule may start there. -/
theorem witness_EveryScheduleKeepsTheInvariant : haltedState.Inv := by
  refine ⟨by decide, fun _ => ⟨by decide, by decide, ?_⟩⟩
  intro c hc; cases hc; exact ⟨by decide, by decide, by decide⟩

theorem witness_DutifulStepsFindALoadedBlock :
    (∀ e, State.reset.status ≠ .loadError e) ∧
    dutiful true ([.load [] false, .tick, .load [0x12, 0x00] true] ++ .step 0 :: [.tick]) = true ∧
    ∃ t replies, runSchedule Config.defaultGlyphs [.load [] false, .tick, .load [0x12, 0x00] true] State.reset =
      .next (t, replies) := by
  refine ⟨?_, by decide, ?_⟩
  · intro e h; cases h
  · exact ⟨_, _, rfl⟩

/-- Each clause of the writers: the part does change under the instruction named. -/
theorem witness_EachPartHasItsWriters :
    seen (exec (.ldI 1) State.reset) (·.i) = some 1 ∧ seen (exec (.ldDtVx 1) (withRegs [(1, 2)])) (·.dt) = some 2 ∧
    seen (exec (.ldStVx 1) (withRegs [(1, 2)])) (·.st) = some 2 ∧
    seen (exec (.call 1) State.reset) (fun t => (t.stack[0], t.sp)) = some (0x200, 1) ∧
    seen (exec (.ldB 1) ((withRegs [(1, 2)]).setI 0x300)) (·.mem) = some [(0x302, 2)] ∧
    seen (exec (.drw 0 1 1) State.reset) (fun t => t.pixel 0) = some true ∧
    seen (exec (.jp 1) State.reset) (·.pc) = some 1 ∧
    seen (exec (.loadRegs 1) State.reset) (fun t => (t.reg 0, t.reg 1)) = some (0xF0, 0x90) ∧
    seen (exec (.shrReg 0 1) (withRegs [(1, 2)])) (fun t => t.reg 0) = some 1 ∧
    seen (exec .ret (State.reset.setPc 0x202)) (fun t => (t.status, t.faultPc)) =
      some (.fault .stackUnderflow, 0x200) := by decide

theorem witness_VfHasItsWriters :
    seen (exec (.addReg 0 1) (withRegs [(0, 0xFF), (1, 1)])) (fun t => t.reg vf) = some 1 ∧
    seen (exec (.ldImm vf 3) State.reset) (fun t => t.reg vf) = some 3 := by decide

/-- An instruction outside each list, with its next state; and those inside the lists of the timers. -/
theorem witness_InputsAndTimersHaveTheirReaders :
    exec .cls State.reset = .next (State.reset.setFb Frame.blank) ∧
    exec (.ldStVx 1) State.reset = .next (State.reset.setSt 0) ∧
    exec (.ldDtVx 1) State.reset = .next (State.reset.setDt 0) := ⟨rfl, rfl, rfl⟩

theorem witness_WriteChangesThatByteOnly : (0xFFF ≤ 0xFFF) ∧ (0xFFF < 0x1000) ∧ Memory.wf [(0xFFF, 1)] = true := by decide

theorem witness_EqualMemoriesAreEqualData :
    Memory.wf [(0x200, 1), (0x300, 2)] = true ∧
      Memory.write (Memory.write [] 0x300 2) 0x200 1 = [(0x200, 1), (0x300, 2)] := by decide

theorem witness_StoredWordIsFetched :
    let s := State.reset.setI 0xFF0
    s.i.toNat + (15 : RegIdx).val ≤ 0xFFF ∧ (15 : RegIdx).val = (14 : RegIdx).val + 1 ∧
      (15 : RegIdx).val ≤ (15 : RegIdx).val ∧ (0xFFE#16).toNat = s.i.toNat + (14 : RegIdx).val := by decide

/-- Two rows on the screen from 0xFFE; the third, clipped, would lie above 0xFFF (vector D9). -/
theorem witness_DrwXorsTheSprite :
    let s := (withRegs [(1, 30)]).setI 0xFFE
    ∀ r < (5 : Fin 16).val, (s.reg 1).toNat % 32 + r ≤ 31 → s.i.toNat + r ≤ 0xFFF := by decide

/-- Vector D8: row 2 would read 0x1000. -/
theorem witness_DrwOutOfRangeFaults :
    let s := State.reset.setI 0xFFE
    2 < (5 : Fin 16).val ∧ (s.reg 1).toNat % 32 + 2 ≤ 31 ∧ 0xFFF < s.i.toNat + 2 := by decide

theorem witness_DrwTwiceRestoresTheFramebuffer :
    (0 : RegIdx) ≠ vf ∧ (1 : RegIdx) ≠ vf ∧
      ∀ r < (5 : Fin 16).val, (State.reset.reg 1).toNat % 32 + r ≤ 31 → State.reset.i.toNat + r ≤ 0xFFF := by decide

/-- PushChecksTheBound, PopChecksTheBound, CallPushesTheReturnAddress, RetPopsTheReturnAddress,
StackFaultsAreTaken: both ends of the stack's range, 11 entries and 12 for a push, 1 and 0 for a pop. -/
theorem witness_stack_bounds :
    (State.reset.setStack (Vector.replicate 12 0) 11).sp.val < 12 ∧ fullStack.sp = 12 ∧
      0 < (State.reset.setStack (Vector.replicate 12 0) 1).sp.val ∧ State.reset.sp = 0 := by decide

theorem witness_CallThenRetReturns :
    State.reset.sp.val < 12 ∧
      seen (exec (.call 0x300) State.reset) (fun t => (t.sp, t.stack[0])) = some (1, 0x200) := by decide

theorem witness_UnrecognizedWordOnlyAdvancesPc :
    let s := (State.reset.setPc 0xFFE).placeWord 0xF00A
    s.status = .ok ∧ fetch s.mem s.pc = some 0xF00A ∧ decode 0xF00A = .unrecognized 0xF00A := by decide

theorem witness_ParkedStaysParked : (State.reset.placeWord 0x1200).Parked ∧ NoLoad [.tick, .keySet 3 true] :=
  ⟨⟨by decide, 0x1200, 0x200, by decide, by decide, by decide⟩, by simp [NoLoad]⟩

/-- A jump to itself at 0x204 behind a key test at 0x200, as program P7 is behind a timer test. -/
def waitsForKey0 : State := (State.reset.setMem (writeBytes [] 0x204 [0x12, 0x04])).placeWord 0xE09E

/-- The program finishes once the host sets its key, and the schedule may go on after it has parked. -/
theorem witness_ParkedStaysParked_finishes :
    waitsForKey0.Finishes Config.defaultGlyphs [.keySet 0 true, .step 0, .tick] :=
  ⟨[.keySet 0 true, .step 0], [.tick], _, _, rfl, by simp [NoLoad], rfl,
    by decide, 0x1204, 0x204, by decide, by decide, by decide⟩

/-- Without the key the same STEP takes no skip (R97), so `PC` is not at the jump. -/
theorem test_waitsForKey0_without_key : seen (cycle 0 waitsForKey0) (·.pc) = some 0x202 := by decide

/-- AddRegCarries, SubtractionsBorrow, ShiftsTakeTheirSourceFromVy: both sides of `X ≠ VF`. -/
theorem witness_flag_destinations : (0 : RegIdx) ≠ vf ∧ (15 : RegIdx) = vf := by decide

theorem witness_LdBStoresTheDecimalDigits : (State.reset.setI 0xFFD).i.toNat + 2 ≤ 0xFFF := by decide

theorem witness_StoreRegsStoresTheRange :
    (State.reset.setI 0xFF0).i.toNat + (15 : RegIdx).val ≤ 0xFFF ∧ (0 : RegIdx).val ≤ (15 : RegIdx).val := by decide

theorem witness_LoadRegsLoadsTheRange :
    (State.reset.setI 0xFFF).i.toNat + (0 : RegIdx).val ≤ 0xFFF ∧ (0 : RegIdx).val ≤ (0 : RegIdx).val := by decide

theorem witness_TransfersOutOfRangeFault :
    0xFFF < (State.reset.setI 0xFFE).i.toNat + 2 ∧ 0xFFF < (State.reset.setI 0xFFF).i.toNat + (1 : RegIdx).val := by
  decide

theorem witness_KeySkipsTestTheKey : ((withRegs [(1, 0x0F)]).reg 1).toNat ≤ 0x0F := by decide

theorem witness_KeyRangeFaultIsTaken : ((withRegs [(1, 0x10)]).reg 1).toNat > 0x0F := by decide

theorem witness_LoadInitialisesTheBlock :
    (List.replicate 3584 (0 : Byte)).length ≤ 3584 ∧ ([] : List Byte).length ≤ 3584 :=
  ⟨by rw [List.length_replicate], Nat.zero_le _⟩

theorem witness_FailedLoadReportsItsError : 3584 < (List.replicate 3585 (0 : Byte)).length := by
  rw [List.length_replicate]; omega

theorem witness_ResetRestoresTheLoadState : ([0x12, 0x00] : List Byte).length ≤ 3584 := by decide

end Sys2Proof.Tests
end

section
/-!
The framebuffer's setter as a rule: what each pixel holds after it, and its frame. `00E0` (R63) is one use
of it.
-/

namespace Sys2Proof.Machine

@[simp] theorem setFb_pixel (s : State) (f : Frame) (n : Nat) : (s.setFb f).pixel n = f.pixel n := rfl

/-- Setting the framebuffer reaches no part of the state but pixels. -/
theorem setFb_onlyChanges_pixels (s : State) (f : Frame) :
    OnlyChanges (fun p => ∃ n, p = .pixel n) s (s.setFb f) := by
  intro p hp
  cases p with
  | pixel n => exact absurd ⟨n, rfl⟩ hp
  | _ => rfl

/-- What `00E0` executes to (R63). -/
theorem exec_cls (s : State) : exec .cls s = .next (s.setFb Frame.blank) := rfl

/-- Settles O24: the state after `00E0` is the one before with the blank frame set, whose pixels are all
off and which reaches nothing but pixels. -/
theorem clsClearsTheFramebuffer : Obligations.ClsClearsTheFramebuffer := by
  intro s
  have off : ∀ p < 2048, (s.setFb Frame.blank).pixel p = false := fun p _ => by
    rw [setFb_pixel, pixel_blank]
  exact ⟨s.setFb Frame.blank, exec_cls s, off, setFb_onlyChanges_pixels s Frame.blank⟩

end Sys2Proof.Machine
end

section
/-!
Control transfers that reach `PC` alone: the frame of `PC`'s setter and of the skip built on it, then the
jump `1NNN` (R69) and the four skips on registers (R72 to R75) as uses of them.
-/

namespace Sys2Proof.Machine

/-- A jump target, zero-extended to the width of `PC`, keeps its value. -/
theorem toNat_addressOf (nnn : Addr) : (addressOf nnn).toNat = nnn.toNat :=
  BitVec.toNat_setWidth_of_le (by decide)

/-- Setting `PC` reaches no other part of the state. -/
theorem setPc_onlyChanges_pc (s : State) (w : Word) : OnlyChanges (fun p => p = .pc) s (s.setPc w) := by
  intro p hp
  cases p with
  | pc => exact absurd rfl hp
  | _ => rfl

/-- A skip, taken or not, reaches no part of the state but `PC` (R61). -/
theorem skipIf_onlyChanges_pc (s : State) (c : Bool) : OnlyChanges (fun p => p = .pc) s (s.skipIf c) := by
  rw [skipIf_eq]
  exact setPc_onlyChanges_pc s _

/-! ### What the jump and the skips execute to -/

theorem exec_jp (nnn : Addr) (s : State) : exec (.jp nnn) s = .next (s.setPc (addressOf nnn)) := rfl

theorem exec_seImm (x : RegIdx) (nn : Byte) (s : State) :
    exec (.seImm x nn) s = .next (s.skipIf (s.reg x == nn)) := rfl

theorem exec_sneImm (x : RegIdx) (nn : Byte) (s : State) :
    exec (.sneImm x nn) s = .next (s.skipIf (s.reg x != nn)) := rfl

theorem exec_seReg (x y : RegIdx) (s : State) :
    exec (.seReg x y) s = .next (s.skipIf (s.reg x == s.reg y)) := rfl

theorem exec_sneReg (x y : RegIdx) (s : State) :
    exec (.sneReg x y) s = .next (s.skipIf (s.reg x != s.reg y)) := rfl

/-- An instruction that executes to a skip on the test `c` moves `PC` a further 2 exactly when the
comparison `holds` that `c` decides, and changes nothing else. -/
theorem exec_skips_when {i : Instr} {s : State} {c : Bool} {holds : Prop} [Decidable holds]
    (hexec : exec i s = .next (s.skipIf c)) (htest : c = true ↔ holds) :
    ∃ t, exec i s = .next t ∧ t.pc = (if holds then s.pc + 2 else s.pc) ∧
      OnlyChanges (fun p => p = .pc) s t := by
  have hpc : (s.skipIf c).pc = if holds then s.pc + 2 else s.pc := by
    rw [skipIf_pc]
    exact if_congr htest rfl rfl
  exact ⟨s.skipIf c, hexec, hpc, skipIf_onlyChanges_pc s c⟩

/-! ### The statements -/

/-- Settles O30: the state after `1NNN` is the one before with `PC` set to the zero-extended address. -/
theorem jpSetsPc : Obligations.JpSetsPc := by
  intro s nnn
  exact ⟨s.setPc (addressOf nnn), exec_jp nnn s, toNat_addressOf nnn, setPc_onlyChanges_pc s _⟩

/-- Settles O36: each of the four executes to a skip on a Boolean test, `==` for `3XNN` and `5XY0`, `!=`
for `4XNN` and `9XY0`, and that test decides the comparison. -/
theorem skipsCompareAndSkip : Obligations.SkipsCompareAndSkip := by
  intro s x y nn
  refine ⟨?seImm, ?sneImm, ?seReg, ?sneReg⟩
  case seImm => exact exec_skips_when (exec_seImm x nn s) beq_iff_eq
  case sneImm => exact exec_skips_when (exec_sneImm x nn s) bne_iff_ne
  case seReg => exact exec_skips_when (exec_seReg x y s) beq_iff_eq
  case sneReg => exact exec_skips_when (exec_sneReg x y s) bne_iff_ne

end Sys2Proof.Machine
end

section
/-!
The register setter's frame, whichever register is the destination (`VF` included), then the loads `6XNN`
(R78) and `8XY0` (R80) and the immediate addition `7XNN` (R79) as uses of it.
-/

namespace Sys2Proof.Machine

/-- Setting a register reaches no other part of the state, the other registers included. -/
theorem setReg_onlyChanges_reg (s : State) (x : RegIdx) (b : Byte) :
    OnlyChanges (fun p => p = .reg x) s (s.setReg x b) := by
  intro p hp
  cases p with
  | reg r => exact reg_setReg_other s x r b fun h => hp (congrArg Part.reg h)
  | _ => rfl

/-! ### What the loads and the immediate addition execute to -/

theorem exec_ldImm (x : RegIdx) (nn : Byte) (s : State) :
    exec (.ldImm x nn) s = .next (s.setReg x nn) := rfl

theorem exec_ldReg (x y : RegIdx) (s : State) :
    exec (.ldReg x y) s = .next (s.setReg x (s.reg y)) := rfl

theorem exec_addImm (x : RegIdx) (nn : Byte) (s : State) :
    exec (.addImm x nn) s = .next (s.setReg x (s.reg x + nn)) := rfl

/-- An instruction that executes to setting `V[X]` leaves that byte there and changes nothing else. -/
theorem exec_sets_reg {i : Instr} {s : State} {x : RegIdx} {b : Byte}
    (hexec : exec i s = .next (s.setReg x b)) :
    ∃ t, exec i s = .next t ∧ t.reg x = b ∧ OnlyChanges (fun p => p = .reg x) s t :=
  ⟨s.setReg x b, hexec, reg_setReg_same s x b, setReg_onlyChanges_reg s x b⟩

/-- `7XNN` leaves the sum modulo 256 in `V[X]` and changes nothing else: no carry to `VF` (R79). -/
theorem exec_addImm_wraps (s : State) (x : RegIdx) (nn : Byte) :
    ∃ t, exec (.addImm x nn) s = .next t ∧ (t.reg x).toNat = ((s.reg x).toNat + nn.toNat) % 256 ∧
      OnlyChanges (fun p => p = .reg x) s t := by
  obtain ⟨t, ht, hreg, hframe⟩ := exec_sets_reg (exec_addImm x nn s)
  have hsum : (t.reg x).toNat = ((s.reg x).toNat + nn.toNat) % 256 := by
    rw [hreg, BitVec.toNat_add]
  exact ⟨t, ht, hsum, hframe⟩

/-! ### The statements -/

/-- Settles O39: both loads execute to setting `V[X]`, to the literal and to the other register's value. -/
theorem loadsCopyTheirSource : Obligations.LoadsCopyTheirSource := by
  intro s x y nn
  exact ⟨exec_sets_reg (exec_ldImm x nn s), exec_sets_reg (exec_ldReg x y s)⟩

/-- Settles O40: the sum wraps from every state, so also from the one a `6XNN` leaves, where `V[X]` holds
that word's literal. -/
theorem addImmWraps : Obligations.AddImmWraps := by
  intro s x nn
  refine ⟨exec_addImm_wraps s x nn, fun nn' => ?_⟩
  obtain ⟨t, hload, hreg, -⟩ := exec_sets_reg (exec_ldImm x nn s)
  obtain ⟨u, hadd, hsum, -⟩ := exec_addImm_wraps t x nn'
  rw [hreg] at hsum
  exact ⟨t, u, hload, hadd, hsum⟩

end Sys2Proof.Machine
end

section
/-!
The index register's frame, then the load `ANNN` (R91) as a use of it.
-/

namespace Sys2Proof.Machine

/-- Setting `I` reaches no other part of the state. -/
theorem setI_onlyChanges_index (s : State) (w : Word) :
    OnlyChanges (fun p => p = .index) s (s.setI w) := by
  intro p hp
  cases p with
  | index => exact absurd rfl hp
  | _ => rfl

/-- What `ANNN` executes to (R91). -/
theorem exec_ldI (nnn : Addr) (s : State) : exec (.ldI nnn) s = .next (s.setI (addressOf nnn)) := rfl

/-- Settles O46: the state after `ANNN` is the one before with `I` set to the zero-extended address. -/
theorem ldISetsI : Obligations.LdISetsI := by
  intro s nnn
  have hi : (s.setI (addressOf nnn)).i.toNat = nnn.toNat := by
    rw [setI_i, toNat_addressOf]
  exact ⟨s.setI (addressOf nnn), exec_ldI nnn s, hi, setI_onlyChanges_index s _⟩

end Sys2Proof.Machine
end

section
/-!
The delay timer's frame, then its read `FX07` (R99) as a use of the register setter and its write `FX15`
(R100) as a use of the timer's.
-/

namespace Sys2Proof.Machine

/-- Setting `DT` reaches no other part of the state, the sound timer included. -/
theorem setDt_onlyChanges_delayTimer (s : State) (b : Byte) :
    OnlyChanges (fun p => p = .delayTimer) s (s.setDt b) := by
  intro p hp
  cases p with
  | delayTimer => exact absurd rfl hp
  | _ => rfl

/-- What `FX07` executes to (R99). -/
theorem exec_ldVxDt (x : RegIdx) (s : State) : exec (.ldVxDt x) s = .next (s.setReg x s.dt) := rfl

/-- What `FX15` executes to (R100). -/
theorem exec_ldDtVx (x : RegIdx) (s : State) : exec (.ldDtVx x) s = .next (s.setDt (s.reg x)) := rfl

/-- Settles O54: `FX07` executes to setting `V[X]` to the timer's value, `FX15` to setting the timer to
`V[X]`, and each setter reaches its own part only. -/
theorem delayTimerIsReadAndSet : Obligations.DelayTimerIsReadAndSet := by
  intro s x
  refine ⟨?read, ?set⟩
  case read => exact exec_sets_reg (exec_ldVxDt x s)
  case set => exact ⟨s.setDt (s.reg x), exec_ldDtVx x s, setDt_dt s _, setDt_onlyChanges_delayTimer s _⟩

end Sys2Proof.Machine
end

section
/-!
The decoder against the encoder (R48 to R53). A word is the layout of its own fields, so what the decoder
reads from a word encodes to that word: no bit is dropped. The unrecognized words come from the selectors of
six families only, which gives R52's list; with it an encoding is read back as the instruction it was made
from, and the decoder follows the rows of the opcode table.
-/

namespace Sys2Proof

/-! ### A word is the layout of its fields -/

theorem layoutNNN_fields {w : Word} {op : BitVec 4} (hop : (fieldMajor w).toNat = op.toNat) :
    layoutNNN op (fieldNNN w) = w := by
  rw [toNat_fieldMajor] at hop
  apply BitVec.eq_of_toNat_eq
  rw [toNat_layoutNNN, toNat_fieldNNN, ← hop]; omega

theorem layoutXNN_fields {w : Word} {op : BitVec 4} {nn : Byte} (hop : (fieldMajor w).toNat = op.toNat)
    (hnn : fieldNN w = nn) : layoutXNN op (fieldX w) nn = w := by
  rw [toNat_fieldMajor] at hop
  apply BitVec.eq_of_toNat_eq
  rw [toNat_layoutXNN, val_fieldX, ← hnn, toNat_fieldNN, ← hop]; omega

theorem layoutXYN_fields {w : Word} {op n : BitVec 4} (hop : (fieldMajor w).toNat = op.toNat)
    (hn : (fieldN w).val = n.toNat) : layoutXYN op (fieldX w) (fieldY w) n = w := by
  rw [toNat_fieldMajor] at hop
  rw [val_fieldN] at hn
  apply BitVec.eq_of_toNat_eq
  rw [toNat_layoutXYN, val_fieldX, val_fieldY, ← hn, ← hop]; omega

/-! ### The decoder drops no bit -/

theorem encode_decode0 (w : Word) : encode (decode0 w) = w := by
  unfold decode0
  split_ifs with hcls hret
  · exact hcls.symm
  · exact hret.symm
  · rfl

theorem encode_decode5 {w : Word} (hop : (fieldMajor w).toNat = 5) : encode (decode5 w) = w := by
  unfold decode5
  split_ifs with hn
  · exact layoutXYN_fields hop hn
  · rfl

theorem encode_decode8 {w : Word} (hop : (fieldMajor w).toNat = 8) : encode (decode8 w) = w := by
  unfold decode8
  split
  case h_10 => rfl
  all_goals exact layoutXYN_fields hop (by assumption)

theorem encode_decode9 {w : Word} (hop : (fieldMajor w).toNat = 9) : encode (decode9 w) = w := by
  unfold decode9
  split_ifs with hn
  · exact layoutXYN_fields hop hn
  · rfl

theorem encode_decodeE {w : Word} (hop : (fieldMajor w).toNat = 0xE) : encode (decodeE w) = w := by
  unfold decodeE
  split_ifs
  case neg => rfl
  all_goals exact layoutXNN_fields hop (by assumption)

theorem encode_decodeF {w : Word} (hop : (fieldMajor w).toNat = 0xF) : encode (decodeF w) = w := by
  unfold decodeF
  split_ifs
  case neg => rfl
  all_goals exact layoutXNN_fields hop (by assumption)

/-- What the decoder reads from a word encodes to that word: major by major, the fields it reads and the
selector it tests are all the word has. -/
theorem encode_decode (w : Word) : encode (decode w) = w := by
  have hlt : (fieldMajor w).toNat < 16 := (fieldMajor w).isLt
  unfold decode
  split
  case h_1 => exact encode_decode0 w
  case h_6 hop => exact encode_decode5 hop
  case h_9 hop => exact encode_decode8 hop
  case h_10 hop => exact encode_decode9 hop
  case h_14 hop => exact layoutXYN_fields hop rfl
  case h_15 hop => exact encode_decodeE hop
  case h_2 hop | h_3 hop | h_11 hop | h_12 hop => exact layoutNNN_fields hop
  case h_4 hop | h_5 hop | h_7 hop | h_8 hop | h_13 hop => exact layoutXNN_fields hop rfl
  case h_16 =>
    simp only [imp_false] at *
    exact encode_decodeF (by omega)

/-- An unrecognized word is the very word decoded. -/
theorem eq_of_decode_unrecognized {w w' : Word} (h : decode w = .unrecognized w') : w' = w := by
  have := encode_decode w
  rwa [h] at this

/-! ### What each family's selector leaves unrecognized (R52) -/

theorem decode0_eq_unrecognized_iff (w : Word) :
    decode0 w = .unrecognized w ↔ w ≠ 0x00E0 ∧ w ≠ 0x00EE := by
  unfold decode0; split_ifs <;> simp_all

theorem decode5_eq_unrecognized_iff (w : Word) : decode5 w = .unrecognized w ↔ w.toNat % 0x10 ≠ 0 := by
  rw [← val_fieldN]; unfold decode5; split_ifs <;> simp_all

theorem decode8_eq_unrecognized_iff (w : Word) :
    decode8 w = .unrecognized w ↔ w.toNat % 0x10 ∈ [0x8, 0x9, 0xA, 0xB, 0xC, 0xD, 0xF] := by
  have hlt : (fieldN w).val < 16 := (fieldN w).isLt
  rw [← val_fieldN]
  unfold decode8
  split
  case h_10 => simp_all; omega
  all_goals simp_all

theorem decode9_eq_unrecognized_iff (w : Word) : decode9 w = .unrecognized w ↔ w.toNat % 0x10 ≠ 0 := by
  rw [← val_fieldN]; unfold decode9; split_ifs <;> simp_all

theorem decodeE_eq_unrecognized_iff (w : Word) :
    decodeE w = .unrecognized w ↔ w.toNat % 0x100 ∉ [0x9E, 0xA1] := by
  rw [← toNat_fieldNN]; unfold decodeE; split_ifs <;> simp_all [← BitVec.toNat_inj]

theorem decodeF_eq_unrecognized_iff (w : Word) :
    decodeF w = .unrecognized w ↔
      w.toNat % 0x100 ∉ [0x07, 0x15, 0x18, 0x1E, 0x29, 0x33, 0x55, 0x65] := by
  rw [← toNat_fieldNN]; unfold decodeF; split_ifs <;> simp_all [← BitVec.toNat_inj]

/-- Settles O4: for each of the 16 major nibbles, either the family reads every word, or its selector
leaves the words of one line of R52. -/
theorem unrecognizedWordsAreListed : Obligations.UnrecognizedWordsAreListed := by
  intro w
  have hlow : w.toNat ≤ 0x0FFF ↔ w.toNat / 0x1000 = 0 := by omega
  have hlt : w.toNat / 0x1000 < 16 := by omega
  rw [hlow, decode, toNat_fieldMajor]
  generalize w.toNat / 0x1000 = major at *
  interval_cases major <;>
    simp [decode0_eq_unrecognized_iff, decode5_eq_unrecognized_iff, decode8_eq_unrecognized_iff,
      decode9_eq_unrecognized_iff, decodeE_eq_unrecognized_iff, decodeF_eq_unrecognized_iff]

/-- The well-formedness check of an unrecognized word is R52's list. -/
theorem isUnrecognized_iff (w : Word) : isUnrecognized w = true ↔ decode w = .unrecognized w := by
  have hlow : w.toNat ≤ 0x0FFF ↔ w.toNat / 0x1000 = 0 := by omega
  have hlt : w.toNat / 0x1000 < 16 := by omega
  rw [unrecognizedWordsAreListed, hlow]
  unfold isUnrecognized
  dsimp only
  generalize w.toNat / 0x1000 = major at *
  interval_cases major <;> simp [← BitVec.toNat_inj]

theorem wf_decode (w : Word) : (decode w).wf = true := by
  cases h : decode w with
  | unrecognized w' =>
    obtain rfl := eq_of_decode_unrecognized h
    exact (isUnrecognized_iff w').2 h
  | _ => rfl

/-! ### The rows of the opcode table (R50, R51) -/

open Laws in
/-- An instruction's word has the fixed bits of its row. -/
theorem row_fits_encode (i : Instr) : i.row.fits (encode i) := by
  cases i with
  | cls | ret => rfl
  | jp | call | ldI | jpV0 => exact layoutNNN_and _ _
  | seImm | sneImm | ldImm | addImm | rnd => exact layoutXNN_and_major _ _ _
  | drw => exact layoutXYN_and_major _ _ _ _
  | seReg | ldReg | orReg | andReg | xorReg | addReg | subReg | shrReg | subnReg | shlReg | sneReg =>
    exact layoutXYN_and_selector _ _ _ _
  | skp | sknp | ldVxDt | ldDtVx | ldStVx | addI | ldF | ldB | storeRegs | loadRegs =>
    exact layoutXNN_and_selector _ _ _
  | unrecognized => exact BitVec.and_zero

theorem row_decode_fits (w : Word) : (decode w).row.fits w := by
  simpa only [encode_decode] using row_fits_encode (decode w)

theorem row_mem_opcodeRows (i : Instr) : i.row ∈ opcodeRows ∨ ∃ w, i = .unrecognized w := by
  cases i with
  | unrecognized w => exact .inr ⟨w, rfl⟩
  | _ => exact .inl (by simp [Instr.row, opcodeRows])

/-- The fixed bits tell the rows apart: a word fits at most one of them. -/
theorem row_unique_of_fits {r r' : OpcodeRow} (hr : r ∈ opcodeRows) (hr' : r' ∈ opcodeRows) {w : Word}
    (h : r.fits w) (h' : r'.fits w) : r = r' := by
  have hdisjoint : ∀ r ∈ opcodeRows, ∀ r' ∈ opcodeRows,
      r.bits &&& r'.mask = r'.bits &&& r.mask → r = r' := by decide
  refine hdisjoint r hr r' hr' ?_
  rw [← h, ← h', BitVec.and_assoc, BitVec.and_assoc, BitVec.and_comm r.mask]

theorem low_bits_of_fits {r : OpcodeRow} {w : Word} (hfit : r.fits w) (k : Nat)
    (hmask : r.mask.toNat % 2 ^ k = 2 ^ k - 1) : w.toNat % 2 ^ k = r.bits.toNat % 2 ^ k := by
  have hbits : w.toNat &&& r.mask.toNat = r.bits.toNat := by rw [← BitVec.toNat_and, hfit]
  rw [← hbits, Nat.and_mod_two_pow, hmask, Nat.and_two_pow_sub_one_eq_mod, Nat.mod_mod]

theorem major_of_fits {r : OpcodeRow} {w : Word} (hfit : r.fits w) (hmask : r.mask.toNat / 0x1000 = 0xF) :
    w.toNat / 0x1000 = r.bits.toNat / 0x1000 := by
  have hbits : w.toNat &&& r.mask.toNat = r.bits.toNat := by rw [← BitVec.toNat_and, hfit]
  rw [← hbits, Nat.and_div_two_pow (n := 12), hmask, Nat.and_two_pow_sub_one_eq_mod (n := 4)]
  omega

/-- No word that fits a row is on R52's list: the row fixes the major nibble and a selector that list
leaves out. -/
theorem recognized_of_fits {r : OpcodeRow} (hr : r ∈ opcodeRows) {w : Word} (hfit : r.fits w) :
    isUnrecognized w = false := by
  have hmask : ∀ r ∈ opcodeRows, r.mask.toNat / 0x1000 = 0xF := by decide
  have hmajor := major_of_fits hfit (hmask r hr)
  have hn := low_bits_of_fits hfit 4
  have hnn := low_bits_of_fits hfit 8
  have hword : r.mask = 0xFFFF → w = r.bits := fun h => by
    rw [← hfit, h]; exact BitVec.and_allOnes.symm
  fin_cases hr <;> simp at hmajor hn hnn hword <;> simp [isUnrecognized, *]

/-! ### The statements -/

/-- Settles O1: the decoder reads back the layout of each row, and an unrecognized word by R52's list. -/
theorem decodeOfEncode : Obligations.DecodeOfEncode := by
  intro i hwf
  cases i with
  | cls | ret => rfl
  | unrecognized w => exact (isUnrecognized_iff w).1 hwf
  | _ => simp [encode, decode, decode5, decode8, decode9, decodeE, decodeF]

/-- Settles O2: the two halves are `wf_decode` and `encode_decode`. -/
theorem encodeOfDecode : Obligations.EncodeOfDecode := fun w => ⟨wf_decode w, encode_decode w⟩

/-- Settles O3: a word fits the row of its instruction, which is the only row it can fit; and a word that
fits no row can only be the unrecognized one. -/
theorem decodeFollowsOpcodeTable : Obligations.DecodeFollowsOpcodeTable := by
  intro w
  have hrow := row_decode_fits w
  rcases row_mem_opcodeRows (decode w) with hmem | ⟨w', hw'⟩
  · exact ⟨fun r hr hfit => row_unique_of_fits hmem hr hrow hfit, fun hnone => absurd hrow (hnone _ hmem)⟩
  · obtain rfl := eq_of_decode_unrecognized hw'
    have hlisted := (isUnrecognized_iff w').2 hw'
    refine ⟨fun r hr hfit => ?_, fun _ => hw'⟩
    rw [recognized_of_fits hr hfit] at hlisted
    cases hlisted

/-- Settles O5: fixed words, run through the decoder. -/
theorem writtenWordsDecode : Obligations.WrittenWordsDecode := by
  unfold Obligations.WrittenWordsDecode
  decide

end Sys2Proof
end

section
/-!
Frames: how they widen and compose, and the frame of each setter that the sections above do not give. Then
the statements about single instructions that are one setter or two: the logic instructions, the flag
arithmetic, the shifts, `CXNN` (spec/43_alu.md), `BNNN` (R71), `FX1E` and `FX29` (R92, R93) and `FX18` (R101).
-/

namespace Sys2Proof.Machine

/-! ### Frames -/

theorem OnlyChanges.mono {changed changed' : Part → Prop} {s t : State} (h : OnlyChanges changed s t)
    (hsub : ∀ p, changed p → changed' p) : OnlyChanges changed' s t :=
  fun p hp => h p fun hc => hp (hsub p hc)

theorem Part.Same.trans {p : Part} {s t u : State} (h : Part.Same s t p) (h' : Part.Same t u p) :
    Part.Same s u p := by
  cases p <;> exact Eq.trans h' h

theorem OnlyChanges.trans {changed : Part → Prop} {s t u : State} (h : OnlyChanges changed s t)
    (h' : OnlyChanges changed t u) : OnlyChanges changed s u :=
  fun p hp => (h p hp).trans (h' p hp)

theorem OnlyChanges.refl (changed : Part → Prop) (s : State) : OnlyChanges changed s s := by
  intro p _
  cases p <;> rfl

theorem setSt_onlyChanges_soundTimer (s : State) (b : Byte) :
    OnlyChanges (fun p => p = .soundTimer) s (s.setSt b) := by
  intro p hp
  cases p with
  | soundTimer => exact absurd rfl hp
  | _ => rfl

/-- Taking a fault reaches only its report (R103). -/
theorem enterFault_onlyChanges_report (s : State) (c : FaultCode) (a : Word) :
    OnlyChanges (fun p => p = .status ∨ p = .faultPc) s (s.enterFault c a) := by
  intro p hp
  cases p with
  | status => exact absurd (.inl rfl) hp
  | faultPc => exact absurd (.inr rfl) hp
  | _ => rfl

/-- Two registers set one after the other reach those two only. -/
theorem setReg_setReg_onlyChanges (s : State) (x y : RegIdx) (a b : Byte) :
    OnlyChanges (fun p => p = .reg x ∨ p = .reg y) s ((s.setReg x a).setReg y b) :=
  ((setReg_onlyChanges_reg s x a).mono fun _ => .inl).trans
    ((setReg_onlyChanges_reg (s.setReg x a) y b).mono fun _ => .inr)

theorem resultThenFlag_onlyChanges (s : State) (x : RegIdx) (result flag : Byte) :
    OnlyChanges (fun p => p = .reg x ∨ p = .reg vf) s (s.resultThenFlag x result flag) :=
  setReg_setReg_onlyChanges s x vf result flag

theorem flagThenResult_onlyChanges (s : State) (x : RegIdx) (flag result : Byte) :
    OnlyChanges (fun p => p = .reg x ∨ p = .reg vf) s (s.flagThenResult x flag result) :=
  (setReg_setReg_onlyChanges s vf x flag result).mono fun _ => Or.symm

/-! ### What the instructions execute to -/

theorem exec_orReg (x y : RegIdx) (s : State) :
    exec (.orReg x y) s = .next (s.setReg x (s.reg x ||| s.reg y)) := rfl

theorem exec_andReg (x y : RegIdx) (s : State) :
    exec (.andReg x y) s = .next (s.setReg x (s.reg x &&& s.reg y)) := rfl

theorem exec_xorReg (x y : RegIdx) (s : State) :
    exec (.xorReg x y) s = .next (s.setReg x (s.reg x ^^^ s.reg y)) := rfl

theorem exec_addReg (x y : RegIdx) (s : State) : exec (.addReg x y) s =
    .next (s.resultThenFlag x (s.reg x + s.reg y) (carryFlag (s.reg x) (s.reg y))) := rfl

theorem exec_subReg (x y : RegIdx) (s : State) : exec (.subReg x y) s =
    .next (s.resultThenFlag x (s.reg x - s.reg y) (noBorrowFlag (s.reg x) (s.reg y))) := rfl

theorem exec_subnReg (x y : RegIdx) (s : State) : exec (.subnReg x y) s =
    .next (s.resultThenFlag x (s.reg y - s.reg x) (noBorrowFlag (s.reg y) (s.reg x))) := rfl

theorem exec_shrReg (x y : RegIdx) (s : State) : exec (.shrReg x y) s =
    .next (s.flagThenResult x (lowBitFlag (s.reg y)) (s.reg y >>> 1)) := rfl

theorem exec_shlReg (x y : RegIdx) (s : State) : exec (.shlReg x y) s =
    .next (s.flagThenResult x (highBitFlag (s.reg y)) (s.reg y <<< 1)) := rfl

theorem exec_rnd (x : RegIdx) (nn : Byte) (s : State) :
    exec (.rnd x nn) s = .next (s.setReg x (s.rnd &&& nn)) := rfl

theorem exec_jpV0 (nnn : Addr) (s : State) :
    exec (.jpV0 nnn) s = .next (s.setPc (indexedTarget nnn (s.reg 0))) := rfl

theorem exec_addI (x : RegIdx) (s : State) :
    exec (.addI x) s = .next (s.setI (indexSum s.i (s.reg x))) := rfl

theorem exec_ldF (x : RegIdx) (s : State) : exec (.ldF x) s = .next (s.setI (glyphAddress (s.reg x))) := rfl

theorem exec_ldStVx (x : RegIdx) (s : State) : exec (.ldStVx x) s = .next (s.setSt (s.reg x)) := rfl

theorem exec_unrecognized (w : Word) (s : State) : exec (.unrecognized w) s = .next s := rfl

/-! ### Flags and sums as numbers -/

theorem flagByte_decide (p : Prop) [Decidable p] : flagByte (decide p) = if p then 1 else 0 := by
  by_cases h : p <;> simp [flagByte, h]

theorem toNat_lowBitFlag (b : Byte) : (lowBitFlag b).toNat = b.toNat % 2 := by
  rw [lowBitFlag, BitVec.toNat_and]
  exact Nat.and_one_is_mod _

theorem toNat_highBitFlag (b : Byte) : (highBitFlag b).toNat = b.toNat / 128 := by
  have hlt := b.isLt
  have hand : (highBitFlag b).toNat = (b >>> 7).toNat % 2 := by
    rw [highBitFlag, BitVec.toNat_and]
    exact Nat.and_one_is_mod _
  rw [hand, BitVec.toNat_ushiftRight, Nat.shiftRight_eq_div_pow]
  omega

theorem toNat_zext16_byte (b : Byte) : (zext16 b).toNat = b.toNat := BitVec.toNat_setWidth_of_le (by decide)

/-- The target of `BNNN` is the exact sum: it cannot reach 2^16 (R71). -/
theorem toNat_indexedTarget (nnn : Addr) (v0 : Byte) :
    (indexedTarget nnn v0).toNat = nnn.toNat + v0.toNat := by
  have hnnn := nnn.isLt
  have hv0 := v0.isLt
  have hwide : (zext16 nnn).toNat = nnn.toNat := toNat_addressOf nnn
  rw [indexedTarget, BitVec.toNat_add, hwide, toNat_zext16_byte]
  omega

/-! ### The statements -/

/-- Settles O41: each of the three sets `V[X]` alone, to the bitwise result. -/
theorem logicIsBitwise : Obligations.LogicIsBitwise := by
  intro s x y
  refine ⟨?or, ?and, ?xor⟩
  case or =>
    obtain ⟨t, ht, hreg, hframe⟩ := exec_sets_reg (exec_orReg x y s)
    exact ⟨t, ht, fun k _ => by rw [hreg, BitVec.getLsbD_or], hframe⟩
  case and =>
    obtain ⟨t, ht, hreg, hframe⟩ := exec_sets_reg (exec_andReg x y s)
    exact ⟨t, ht, fun k _ => by rw [hreg, BitVec.getLsbD_and], hframe⟩
  case xor =>
    obtain ⟨t, ht, hreg, hframe⟩ := exec_sets_reg (exec_xorReg x y s)
    exact ⟨t, ht, fun k _ => by rw [hreg, BitVec.getLsbD_xor], hframe⟩

/-- An instruction that writes its result and then its flag leaves the flag in `VF`, and the result in
`V[X]` unless that is `VF`. -/
theorem exec_result_then_flag {i : Instr} {s : State} {x : RegIdx} {result flag : Byte}
    (hexec : exec i s = .next (s.resultThenFlag x result flag)) :
    ∃ t, exec i s = .next t ∧ (x ≠ vf → t.reg x = result) ∧ t.reg vf = flag ∧
      OnlyChanges (fun p => p = .reg x ∨ p = .reg vf) s t := by
  refine ⟨_, hexec, fun hx => ?_, ?_, resultThenFlag_onlyChanges s x result flag⟩
  · rw [reg_resultThenFlag, if_neg hx, if_pos rfl]
  · rw [reg_resultThenFlag, if_pos rfl]

/-- An instruction that writes its flag and then its result leaves the result in `V[X]`, and the flag in
`VF` unless that is `V[X]`. -/
theorem exec_flag_then_result {i : Instr} {s : State} {x : RegIdx} {flag result : Byte}
    (hexec : exec i s = .next (s.flagThenResult x flag result)) :
    ∃ t, exec i s = .next t ∧ t.reg x = result ∧ (x ≠ vf → t.reg vf = flag) ∧
      OnlyChanges (fun p => p = .reg x ∨ p = .reg vf) s t := by
  refine ⟨_, hexec, ?_, fun hx => ?_, flagThenResult_onlyChanges s x flag result⟩
  · rw [reg_flagThenResult, if_pos rfl]
  · rw [reg_flagThenResult, if_neg hx.symm, if_pos rfl]

/-- Settles O42: the wrapped sum, then the carry of the unwrapped one. -/
theorem addRegCarries : Obligations.AddRegCarries := by
  intro s x y
  obtain ⟨t, ht, hresult, hflag, hframe⟩ := exec_result_then_flag (exec_addReg x y s)
  refine ⟨t, ht, fun hx => ?_, ?_, hframe⟩
  · rw [hresult hx, BitVec.toNat_add]
  · rw [hflag, carryFlag, flagByte_decide]

/-- A subtraction modulo 256 as a number. -/
theorem toNat_sub_byte (a b : Byte) : (a - b).toNat = (a.toNat + 256 - b.toNat) % 256 := by
  have hb := b.isLt
  rw [BitVec.toNat_sub]
  omega

/-- Settles O43: the two subtractions differ in their operands' order only. -/
theorem subtractionsBorrow : Obligations.SubtractionsBorrow := by
  intro s x y
  refine ⟨?sub, ?subn⟩
  case sub =>
    obtain ⟨t, ht, hresult, hflag, hframe⟩ := exec_result_then_flag (exec_subReg x y s)
    refine ⟨t, ht, fun hx => ?_, ?_, hframe⟩
    · rw [hresult hx, toNat_sub_byte]
    · rw [hflag, noBorrowFlag, flagByte_decide]
  case subn =>
    obtain ⟨t, ht, hresult, hflag, hframe⟩ := exec_result_then_flag (exec_subnReg x y s)
    refine ⟨t, ht, fun hx => ?_, ?_, hframe⟩
    · rw [hresult hx, toNat_sub_byte]
    · rw [hflag, noBorrowFlag, flagByte_decide]

/-- Settles O44: both shifts take `V[Y]` as it was, and the result is written last. -/
theorem shiftsTakeTheirSourceFromVy : Obligations.ShiftsTakeTheirSourceFromVy := by
  intro s x y
  refine ⟨?shr, ?shl⟩
  case shr =>
    obtain ⟨t, ht, hresult, hflag, hframe⟩ := exec_flag_then_result (exec_shrReg x y s)
    refine ⟨t, ht, ?_, fun hx => ?_, hframe⟩
    · rw [hresult, BitVec.toNat_ushiftRight, Nat.shiftRight_eq_div_pow]
    · rw [hflag hx, toNat_lowBitFlag]
  case shl =>
    obtain ⟨t, ht, hresult, hflag, hframe⟩ := exec_flag_then_result (exec_shlReg x y s)
    refine ⟨t, ht, ?_, fun hx => ?_, hframe⟩
    · rw [hresult, BitVec.toNat_shiftLeft, Nat.shiftLeft_eq]
    · rw [hflag hx, toNat_highBitFlag]

/-- Settles O45: the latched byte is masked bit by bit, for every byte that can be latched. -/
theorem rndMasksTheSuppliedByte : Obligations.RndMasksTheSuppliedByte := by
  intro s x nn
  obtain ⟨t, ht, hreg, hframe⟩ := exec_sets_reg (exec_rnd x nn s)
  exact ⟨t, ht, fun k _ => by rw [hreg, BitVec.getLsbD_and], hframe⟩

/-- Settles O31: the state after `BNNN` is the one before with `PC` set to the exact sum. -/
theorem jpV0AddsV0 : Obligations.JpV0AddsV0 := by
  intro s nnn
  exact ⟨_, exec_jpV0 nnn s, toNat_indexedTarget nnn (s.reg 0), setPc_onlyChanges_pc s _⟩

/-- Settles O47: the sum wraps at 2^16, and 5 times a byte stays below it. -/
theorem addIWrapsAndLdFPointsAtTheGlyph : Obligations.AddIWrapsAndLdFPointsAtTheGlyph := by
  intro s x
  have hsum : (indexSum s.i (s.reg x)).toNat = (s.i.toNat + (s.reg x).toNat) % 65536 := by
    rw [indexSum, BitVec.toNat_add, toNat_zext16_byte]
  have hglyph : (glyphAddress (s.reg x)).toNat = (s.reg x).toNat * 5 := by
    have hlt := (s.reg x).isLt
    rw [glyphAddress, BitVec.toNat_mul, toNat_zext16_byte, show (5 : Word).toNat = 5 from rfl]
    omega
  exact ⟨⟨_, exec_addI x s, hsum, setI_onlyChanges_index s _⟩,
    ⟨_, exec_ldF x s, hglyph, setI_onlyChanges_index s _⟩⟩

/-- Settles O55: `FX18` sets `ST` alone, and ST_READ replies with whatever `ST` holds. -/
theorem soundTimerIsSetAndExposed : Obligations.SoundTimerIsSetAndExposed := by
  intro s x g
  exact ⟨s.setSt (s.reg x), exec_ldStVx x s, setSt_st s _, setSt_onlyChanges_soundTimer s _, rfl⟩

end Sys2Proof.Machine
end

section
/-!
The faults an instruction can raise. `Raises` is the table of R102 for EXECUTE; an instruction that meets
its condition there takes the fault and writes nothing but the report.
-/

namespace Sys2Proof.Machine

/-! ### Valid ranges -/

theorem base_eq (s : State) : s.base = s.i.toNat := rfl

/-- A range that is not empty is valid exactly when its last address is. -/
theorem rangeOk_succ_iff (base n : Nat) : rangeOk base (n + 1) = true ↔ base + n ≤ 0xFFF := by
  rw [rangeOk_iff]
  exact ⟨fun h => h n (by omega), fun h k hk => by omega⟩

/-- The rows of a sprite that are drawn have valid addresses: the condition of R64, clipped rows left out. -/
theorem rangeOk_drawnRows_iff (base : Nat) (n : Fin 16) (vy : Byte) :
    rangeOk base (drawnRows n vy) = true ↔
      ∀ r < n.val, vy.toNat % 32 + r ≤ 31 → base + r ≤ 0xFFF := by
  rw [rangeOk_iff]
  simp only [drawnRows, originY, Config.displayHeight]
  exact ⟨fun h r hr hrow => h r (by omega), fun h r hr => h r (by omega) (by omega)⟩

/-! ### The causes of the faults (R102) -/

/-- The condition on which an instruction raises a fault (R102): which instruction, and in which state. -/
def Raises (i : Instr) (s : State) : FaultCode → Prop
  | .stackOverflow => (∃ nnn, i = .call nnn) ∧ s.sp = 12
  | .stackUnderflow => i = .ret ∧ s.sp = 0
  | .keyRange => ∃ x, (i = .skp x ∨ i = .sknp x) ∧ (s.reg x).toNat > 0x0F
  | .addressRange =>
    (∃ x y n r, i = .drw x y n ∧ r < n.val ∧ (s.reg y).toNat % 32 + r ≤ 31 ∧ s.i.toNat + r > 0xFFF) ∨
    (∃ x, i = .ldB x ∧ s.i.toNat + 2 > 0xFFF) ∨
    (∃ x, (i = .storeRegs x ∨ i = .loadRegs x) ∧ s.i.toNat + x.val > 0xFFF)

theorem exec_call_of_full {s : State} (nnn : Addr) (h : s.sp = 12) :
    exec (.call nnn) s = .next (s.enterFault .stackOverflow (s.pc - 2)) := by
  show execCall nnn s = _
  rw [execCall, push_eq_none.2 h, raise_eq]

theorem exec_ret_of_empty {s : State} (h : s.sp = 0) :
    exec .ret s = .next (s.enterFault .stackUnderflow (s.pc - 2)) := by
  show execRet s = _
  rw [execRet, pop_eq_none.2 h, raise_eq]

theorem exec_skp_of_no_key {s : State} {x : RegIdx} (h : (s.reg x).toNat > 0x0F) :
    exec (.skp x) s = .next (s.enterFault .keyRange (s.pc - 2)) := by
  show execSkp x s = _
  rw [execSkp, keyNumber_eq_none.2 h, raise_eq]

theorem exec_sknp_of_no_key {s : State} {x : RegIdx} (h : (s.reg x).toNat > 0x0F) :
    exec (.sknp x) s = .next (s.enterFault .keyRange (s.pc - 2)) := by
  show execSknp x s = _
  rw [execSknp, keyNumber_eq_none.2 h, raise_eq]

theorem exec_drw_of_invalid {s : State} {x y : RegIdx} {n : Fin 16}
    (h : ¬ ∀ r < n.val, (s.reg y).toNat % 32 + r ≤ 31 → s.i.toNat + r ≤ 0xFFF) :
    exec (.drw x y n) s = .next (s.enterFault .addressRange (s.pc - 2)) := by
  show execDrw x y n s = _
  rw [execDrw, base_eq, if_neg fun hok => h ((rangeOk_drawnRows_iff _ _ _).1 hok), raise_eq]

/-- A store at `I` of bytes that reach above 0xFFF writes none of them (R37). -/
theorem storeAtI_of_invalid {s : State} {bytes : List Byte} {n : Nat} (hlen : bytes.length = n + 1)
    (h : s.i.toNat + n > 0xFFF) :
    storeAtI s bytes = .next (s.enterFault .addressRange (s.pc - 2)) := by
  rw [storeAtI_eq, base_eq, hlen, if_neg fun hall => absurd (hall n (by omega)) (Nat.not_le_of_gt h)]

theorem exec_loadRegs_of_invalid {s : State} {x : RegIdx} (h : s.i.toNat + x.val > 0xFFF) :
    exec (.loadRegs x) s = .next (s.enterFault .addressRange (s.pc - 2)) := by
  show execLoadRegs x s = _
  rw [execLoadRegs, base_eq, if_neg fun hok => absurd ((rangeOk_succ_iff _ _).1 hok) (Nat.not_le_of_gt h),
    raise_eq]

/-- An instruction that meets the condition of a fault takes it, and writes nothing else. -/
theorem exec_of_raises {i : Instr} {s : State} {c : FaultCode} (h : Raises i s c) :
    exec i s = .next (s.enterFault c (s.pc - 2)) := by
  cases c with
  | stackOverflow =>
    obtain ⟨⟨nnn, rfl⟩, hsp⟩ := h
    exact exec_call_of_full nnn hsp
  | stackUnderflow =>
    obtain ⟨rfl, hsp⟩ := h
    exact exec_ret_of_empty hsp
  | keyRange =>
    obtain ⟨x, rfl | rfl, hkey⟩ := h
    · exact exec_skp_of_no_key hkey
    · exact exec_sknp_of_no_key hkey
  | addressRange =>
    obtain ⟨x, y, n, r, rfl, hr, hrow, hout⟩ | ⟨x, rfl, hout⟩ | ⟨x, rfl | rfl, hout⟩ := h
    · exact exec_drw_of_invalid fun hall => absurd (hall r hr hrow) (Nat.not_le_of_gt hout)
    · exact storeAtI_of_invalid rfl hout
    · exact storeAtI_of_invalid (length_regsUpTo s x) hout
    · exact exec_loadRegs_of_invalid hout

/-- The fault is reported at the instruction's address, and only the report is written. -/
theorem exec_reports_fault {i : Instr} {s : State} {c : FaultCode} (h : Raises i s c) :
    ∃ t, exec i s = .next t ∧ t.status = .fault c ∧ t.faultPc = s.pc - 2 ∧
      OnlyChanges (fun p => p = .status ∨ p = .faultPc) s t :=
  ⟨_, exec_of_raises h, rfl, rfl, enterFault_onlyChanges_report s c _⟩

/-- Settles O26: a drawn row above 0xFFF is a cause of ADDRESS_RANGE. -/
theorem drwOutOfRangeFaults : Obligations.DrwOutOfRangeFaults :=
  fun _ x y n r hr hrow hout => exec_reports_fault (.inl ⟨x, y, n, r, rfl, hr, hrow, hout⟩)

/-- Settles O34: the full stack and the empty one are the causes of the two stack faults. -/
theorem stackFaultsAreTaken : Obligations.StackFaultsAreTaken :=
  ⟨fun _ nnn hfull => exec_reports_fault (c := .stackOverflow) ⟨⟨nnn, rfl⟩, hfull⟩,
    fun _ hempty => exec_reports_fault (c := .stackUnderflow) ⟨rfl, hempty⟩⟩

/-- Settles O51: an address above 0xFFF is a cause of ADDRESS_RANGE for each of the three. -/
theorem transfersOutOfRangeFault : Obligations.TransfersOutOfRangeFault := by
  rintro s x i (⟨rfl, hout⟩ | ⟨hi, hout⟩)
  · exact exec_reports_fault (.inr (.inl ⟨x, rfl, hout⟩))
  · exact exec_reports_fault (.inr (.inr ⟨x, hi, hout⟩))

/-- Settles O53: a key number above 0x0F is the cause of KEY_RANGE for both tests. -/
theorem keyRangeFaultIsTaken : Obligations.KeyRangeFaultIsTaken :=
  fun _ x _ hkey hi => exec_reports_fault (c := .keyRange) ⟨x, hi, hkey⟩

end Sys2Proof.Machine
end

section
/-!
The call stack and the pair `2NNN`, `00EE` where they do not fault (R66 to R70): what each executes to, and
the frames of the stack's entries and pointer.
-/

namespace Sys2Proof.Machine

/-- Writing one entry and the pointer reaches only these two. -/
theorem setStack_set_onlyChanges (s : State) (k : Fin 12) (w : Word) (p : Fin 13) :
    OnlyChanges (fun q => q = .stackEntry k ∨ q = .sp) s (s.setStack (s.stack.set k w) p) := by
  intro q hq
  cases q with
  | sp => exact absurd (.inr rfl) hq
  | stackEntry j =>
    have hne : k.val ≠ j.val := fun e => hq (.inl (congrArg Part.stackEntry (Fin.ext e.symm)))
    show (s.stack.set k w)[j] = s.stack[j]
    simp [hne]
  | _ => rfl

theorem setStack_pointer_onlyChanges (s : State) (p : Fin 13) :
    OnlyChanges (fun q => q = .sp) s (s.setStack s.stack p) := by
  intro q hq
  cases q with
  | sp => exact absurd rfl hq
  | _ => rfl

theorem exec_call_of_room {s : State} (nnn : Addr) (h : s.sp.val < 12) :
    exec (.call nnn) s = .next
      ((s.setStack (s.stack.set s.sp.val s.pc h) ⟨s.sp.val + 1, by omega⟩).setPc (addressOf nnn)) := by
  show execCall nnn s = _
  rw [execCall, push_eq_some.2 ⟨h, rfl⟩]

theorem exec_ret_of_held {s : State} (h : s.sp.val ≠ 0) :
    exec .ret s = .next
      ((s.setStack s.stack ⟨s.sp.val - 1, by omega⟩).setPc (s.stack[s.sp.val - 1]'(by omega))) := by
  show execRet s = _
  rw [execRet, pop_eq_some.2 ⟨h, rfl, rfl⟩]

/-- Settles O28: below 12 entries PUSH is one entry and the pointer set; at 12 it answers none, and `2NNN`
takes the fault. -/
theorem pushChecksTheBound : Obligations.PushChecksTheBound := by
  intro s w
  refine ⟨fun h => ?room, fun hfull => ⟨push_eq_none.2 hfull, fun nnn => ?full⟩⟩
  case room =>
    exact ⟨_, push_eq_some.2 ⟨h, rfl⟩, Vector.getElem_set_self h, rfl,
      setStack_set_onlyChanges s ⟨s.sp.val, h⟩ w _⟩
  case full => exact ⟨_, exec_call_of_full nnn hfull, rfl, rfl, rfl⟩

/-- Settles O29: above 0 entries POP sets the pointer alone; at 0 it answers none, and `00EE` takes the
fault. -/
theorem popChecksTheBound : Obligations.PopChecksTheBound := by
  intro s
  refine ⟨fun h => ?held, fun hempty => ⟨pop_eq_none.2 hempty, ?empty⟩⟩
  case held =>
    exact ⟨_, pop_eq_some.2 ⟨by omega, rfl, rfl⟩, rfl, setStack_pointer_onlyChanges s _⟩
  case empty => exact ⟨_, exec_ret_of_empty hempty, rfl, rfl, rfl⟩

/-- Settles O32: with room, `2NNN` is a push of the advanced `PC` and then a jump. -/
theorem callPushesTheReturnAddress : Obligations.CallPushesTheReturnAddress := by
  intro s nnn h
  refine ⟨_, exec_call_of_room nnn h, Vector.getElem_set_self h, rfl, toNat_addressOf nnn, ?_⟩
  have hpush := setStack_set_onlyChanges s ⟨s.sp.val, h⟩ s.pc ⟨s.sp.val + 1, by omega⟩
  exact (hpush.mono fun _ hp => .inr hp.symm).trans
    ((setPc_onlyChanges_pc _ (addressOf nnn)).mono fun _ => .inl)

/-- Settles O33: with an entry held, `00EE` is a pop and then a jump to the entry. -/
theorem retPopsTheReturnAddress : Obligations.RetPopsTheReturnAddress := by
  intro s h
  refine ⟨_, exec_ret_of_held (by omega), rfl, rfl, ?_⟩
  exact ((setStack_pointer_onlyChanges s _).mono fun _ => .inr).trans
    ((setPc_onlyChanges_pc _ _).mono fun _ => .inl)

/-- Settles O35: the return pops the entry that the call pushed, since nothing between them touched the
stack. -/
theorem callThenRetReturns : Obligations.CallThenRetReturns := by
  intro s nnn h
  refine ⟨_, exec_call_of_room nnn h, fun u hstack hsp => ?_⟩
  rw [setPc_stack, setStack_stack] at hstack
  rw [setPc_sp, setStack_sp] at hsp
  have hval : u.sp.val = s.sp.val + 1 := congrArg Fin.val hsp
  refine ⟨_, exec_ret_of_held (by omega), ?_, Fin.ext ?_⟩
  · rw [setPc_pc]
    simp only [hstack, hval, Nat.add_sub_cancel]
    exact Vector.getElem_set_self h
  · show u.sp.val - 1 = s.sp.val
    omega

end Sys2Proof.Machine
end

section
/-!
The key tests `EX9E` and `EXA1` on a key number up to 0x0F (R97, R98): skips on the key's bit.
-/

namespace Sys2Proof.Machine

theorem exec_skp_of_key {s : State} {x : RegIdx} (h : (s.reg x).toNat ≤ 0x0F) :
    exec (.skp x) s = .next (s.skipIf (s.key.getLsbD (s.reg x).toNat)) := by
  have hkey : keyNumber (s.reg x) = some ⟨(s.reg x).toNat, by omega⟩ := keyNumber_eq_some.2 rfl
  show execSkp x s = _
  rw [execSkp, hkey]; rfl

theorem exec_sknp_of_key {s : State} {x : RegIdx} (h : (s.reg x).toNat ≤ 0x0F) :
    exec (.sknp x) s = .next (s.skipIf (!s.key.getLsbD (s.reg x).toNat)) := by
  have hkey : keyNumber (s.reg x) = some ⟨(s.reg x).toNat, by omega⟩ := keyNumber_eq_some.2 rfl
  show execSknp x s = _
  rw [execSknp, hkey]; rfl

/-- Settles O52: both execute to a skip on the key's bit, `EXA1` on its negation. -/
theorem keySkipsTestTheKey : Obligations.KeySkipsTestTheKey :=
  fun _ _ h => ⟨exec_skips_when (exec_skp_of_key h) Iff.rfl,
    exec_skips_when (exec_sknp_of_key h) (by rw [Bool.not_eq_true'])⟩

end Sys2Proof.Machine
end

section
/-!
The memory transfers with every address valid (R94 to R96): the bytes a store leaves and its frame, and the
registers a load leaves.
-/

namespace Sys2Proof.Machine

theorem storeAtI_of_valid {s : State} {bytes : List Byte} {n : Nat} (hlen : bytes.length = n + 1)
    (h : s.i.toNat + n ≤ 0xFFF) :
    storeAtI s bytes = .next (s.setMem (writeBytes s.mem s.i.toNat bytes)) := by
  rw [storeAtI_eq, base_eq, hlen, if_pos]
  intro k hk
  omega

theorem exec_ldB_of_valid {s : State} {x : RegIdx} (h : s.i.toNat + 2 ≤ 0xFFF) :
    exec (.ldB x) s = .next (s.setMem (writeBytes s.mem s.i.toNat (decimalDigits (s.reg x)))) :=
  storeAtI_of_valid rfl h

theorem exec_storeRegs_of_valid {s : State} {x : RegIdx} (h : s.i.toNat + x.val ≤ 0xFFF) :
    exec (.storeRegs x) s = .next (s.setMem (writeBytes s.mem s.i.toNat (regsUpTo s x))) :=
  storeAtI_of_valid (length_regsUpTo s x) h

theorem exec_loadRegs_of_valid {s : State} {x : RegIdx} (h : s.i.toNat + x.val ≤ 0xFFF) :
    exec (.loadRegs x) s = .next (s.setV (loadFrom s.mem s.i.toNat (x.val + 1) s.v)) := by
  show execLoadRegs x s = _
  rw [execLoadRegs, base_eq, if_pos ((rangeOk_succ_iff _ _).2 h)]

/-- The byte a write of several bytes leaves at the `k`-th address. -/
theorem read_writeBytes_at (m : Memory) (base : Nat) (ws : List Byte) {k : Nat} (hk : k < ws.length) :
    (writeBytes m base ws).read (base + k) = ws.getD k 0 := by
  rw [read_writeBytes, if_pos (by omega), Nat.add_sub_cancel_left]

/-- Bytes written to memory reach only their own addresses. -/
theorem writeBytes_onlyChanges (s : State) (base : Nat) (ws : List Byte) :
    OnlyChanges (fun p => ∃ k < ws.length, p = .byte (base + k)) s
      (s.setMem (writeBytes s.mem base ws)) := by
  intro p hp
  cases p with
  | byte a =>
    show (writeBytes s.mem base ws).read a = s.mem.read a
    rw [read_writeBytes, if_neg]
    rintro ⟨hge, hlt⟩
    exact hp ⟨a - base, by omega, congrArg Part.byte (by omega)⟩
  | _ => rfl

/-- What `FX55` leaves at the address of the `k`-th register it stores. -/
theorem read_storedRegs (s : State) {x k : RegIdx} (hk : k.val ≤ x.val) :
    (writeBytes s.mem s.i.toNat (regsUpTo s x)).read (s.i.toNat + k.val) = s.reg k := by
  rw [read_writeBytes_at _ _ _ (by rw [length_regsUpTo]; omega), getD_regsUpTo s x k hk]

/-- Settles O49: `V[k]` is the `k`-th byte written, and the write reaches only these addresses. -/
theorem storeRegsStoresTheRange : Obligations.StoreRegsStoresTheRange := by
  intro s x h
  refine ⟨_, exec_storeRegs_of_valid h, fun k hk => read_storedRegs s hk, ?_⟩
  refine (writeBytes_onlyChanges s _ _).mono ?_
  rintro p ⟨k, hk, rfl⟩
  rw [length_regsUpTo] at hk
  exact ⟨⟨k, by omega⟩, Nat.le_of_lt_succ hk, rfl⟩

/-- Settles O23: the fetch reads the two bytes where `FX55` left the two registers. -/
theorem storedWordIsFetched : Obligations.StoredWordIsFetched := by
  intro s x k k' pc h hnext hk' hpc
  refine ⟨_, exec_storeRegs_of_valid h, ?_⟩
  have hhi := read_storedRegs s (x := x) (k := k) (by omega)
  have hlo := read_storedRegs s hk'
  rw [hnext, ← Nat.add_assoc] at hlo
  rw [fetch_eq, if_pos (by omega), hpc, setMem_mem, hhi, hlo]

theorem setV_reg (s : State) (v : Vector Byte 16) (r : RegIdx) : (s.setV v).reg r = v[r] := rfl

/-- Settles O50: the registers up to `X` come from memory, the ones above stay. -/
theorem loadRegsLoadsTheRange : Obligations.LoadRegsLoadsTheRange := by
  intro s x h
  refine ⟨_, exec_loadRegs_of_valid h, fun k hk => ?_, fun p hp => ?_⟩
  · rw [setV_reg, getElem_loadFrom, if_pos (by omega)]
  · cases p with
    | reg r =>
      show (loadFrom s.mem s.i.toNat (x.val + 1) s.v)[r] = s.v[r]
      rw [getElem_loadFrom, if_neg fun hr => hp ⟨r, by omega, rfl⟩]
    | _ => rfl

/-- Settles O48: the three digits are the three bytes written, and each fits its byte. -/
theorem ldBStoresTheDecimalDigits : Obligations.LdBStoresTheDecimalDigits := by
  intro s x h
  have hread : ∀ k < 3, (writeBytes s.mem s.i.toNat (decimalDigits (s.reg x))).read (s.i.toNat + k) =
      (decimalDigits (s.reg x)).getD k 0 := fun k hk => read_writeBytes_at _ _ _ hk
  refine ⟨_, exec_ldB_of_valid h, ?_, ?_, ?_, writeBytes_onlyChanges s _ (decimalDigits (s.reg x))⟩
  · exact congrArg BitVec.toNat (hread 0 (by omega))
  · exact congrArg BitVec.toNat (hread 1 (by omega))
  · exact congrArg BitVec.toNat (hread 2 (by omega))

end Sys2Proof.Machine
end

section
/-!
`DXYN` with every drawn row's address valid (R64, R65). One description of a draw, in terms of the sprite's
pixel map in the state it is drawn in, serves a single draw and the two draws of the XOR pair.
-/

namespace Sys2Proof.Machine

/-- The pixel map of the sprite that `DXYN` draws in a state (R64, R65). -/
def State.spriteAt (s : State) (x y : RegIdx) (n : Fin 16) (p : Nat) : Bool :=
  spriteBit s.mem s.base (originX (s.reg x)) (originY (s.reg y)) (drawnRows n (s.reg y)) p

/-- The pixel map by column and row: the rows past the bottom edge drop out by themselves. -/
theorem spriteAt_eq (s : State) (x y : RegIdx) (n : Fin 16) {px py : Nat} (hpx : px < 64) (hpy : py < 32) :
    s.spriteAt x y n (py * 64 + px) =
      (decide ((s.reg y).toNat % 32 ≤ py ∧ py < (s.reg y).toNat % 32 + n.val ∧
          (s.reg x).toNat % 64 ≤ px ∧ px < (s.reg x).toNat % 64 + 8) &&
        (s.mem.read (s.i.toNat + (py - (s.reg y).toNat % 32))).getLsbD (7 - (px - (s.reg x).toNat % 64))) := by
  have hrow : (py * 64 + px) / 64 = py := by omega
  have hcol : (py * 64 + px) % 64 = px := by omega
  have hrows : py < originY (s.reg y) + drawnRows n (s.reg y) ↔ py < (s.reg y).toNat % 32 + n.val := by
    simp only [drawnRows, originY, Config.displayHeight]; omega
  simp only [State.spriteAt, spriteBit, hrow, hcol, hrows, base_eq]
  rfl

/-- The map depends on the two registers, `I` and memory only. -/
theorem spriteAt_congr {s t : State} {x y : RegIdx} (n : Fin 16) (hx : t.reg x = s.reg x)
    (hy : t.reg y = s.reg y) (hi : t.i = s.i) (hmem : ∀ a, t.mem.read a = s.mem.read a) (p : Nat) :
    t.spriteAt x y n p = s.spriteAt x y n p := by
  simp only [State.spriteAt, spriteBit, base_eq, hx, hy, hi, hmem]

theorem exec_drw_of_valid {s : State} {x y : RegIdx} {n : Fin 16}
    (h : ∀ r < n.val, (s.reg y).toNat % 32 + r ≤ 31 → s.i.toNat + r ≤ 0xFFF) :
    exec (.drw x y n) s = .next
      ((s.setFb (spriteDrawn x y n s).1).setReg vf (collisionFlag (spriteDrawn x y n s).2)) := by
  show execDrw x y n s = _
  rw [execDrw, base_eq, if_pos ((rangeOk_drawnRows_iff _ _ _).2 h)]

theorem flagByte_eq_one {c : Bool} : flagByte c = 1 ↔ c = true := by cases c <;> simp [flagByte]

theorem flagByte_one_or_zero (c : Bool) : flagByte c = 1 ∨ flagByte c = 0 := by
  cases c <;> simp [flagByte]

/-- What a draw does: each pixel is XORed with the sprite's map, `VF` is 1 exactly when a set pixel was
turned off, and nothing else changes. -/
theorem exec_drw_xors {s : State} {x y : RegIdx} {n : Fin 16}
    (h : ∀ r < n.val, (s.reg y).toNat % 32 + r ≤ 31 → s.i.toNat + r ≤ 0xFFF) :
    ∃ t, exec (.drw x y n) s = .next t ∧
      (∀ p < 2048, t.pixel p = (s.pixel p ^^ s.spriteAt x y n p)) ∧
      (t.reg vf = 1 ∨ t.reg vf = 0) ∧
      (t.reg vf = 1 ↔ ∃ p < 2048, s.pixel p = true ∧ t.pixel p = false) ∧
      OnlyChanges (fun p => p = .reg vf ∨ ∃ k, p = .pixel k) s t := by
  obtain ⟨hpixels, hhit⟩ := drawRows_spec s.mem s.base (originX (s.reg x)) (originY (s.reg y))
    (drawnRows n (s.reg y)) (s.fb, false) (drawnRows_le n (s.reg y))
  refine ⟨_, exec_drw_of_valid h, hpixels, ?flag, ?collision, ?frame⟩
  case flag =>
    rw [reg_setReg_same]
    exact flagByte_one_or_zero _
  case collision =>
    rw [reg_setReg_same, collisionFlag, flagByte_eq_one]
    refine hhit.trans ⟨?_, ?_⟩
    · rintro (hfalse | ⟨p, hp, hset, hbit⟩)
      · cases hfalse
      · exact ⟨p, hp, hset, (hpixels p hp).trans (by rw [hset, hbit]; rfl)⟩
    · rintro ⟨p, hp, hset, hoff⟩
      have hxor := (hpixels p hp).symm.trans hoff
      refine .inr ⟨p, hp, hset, ?_⟩
      rw [show s.fb.pixel p = true from hset] at hxor
      simpa using hxor
  case frame =>
    exact ((setFb_onlyChanges_pixels s _).mono fun _ => .inr).trans
      ((setReg_onlyChanges_reg _ vf _).mono fun _ => .inl)

/-- Settles O25: the pixel map of the draw, written out by column and row. -/
theorem drwXorsTheSprite : Obligations.DrwXorsTheSprite := by
  intro s x y n h
  obtain ⟨t, ht, hpixels, hflag, hcollision, hframe⟩ := exec_drw_xors (x := x) h
  refine ⟨t, ht, fun px hpx py hpy => ?_, hflag, hcollision, hframe⟩
  rw [hpixels _ (by omega), spriteAt_eq s x y n hpx hpy]

/-- Settles O27: the first draw leaves what the sprite's map depends on, so the second XORs the same map and
undoes the first; it turns off just the pixels the first turned on. -/
theorem drwTwiceRestoresTheFramebuffer : Obligations.DrwTwiceRestoresTheFramebuffer := by
  intro s x y n hx hy hvalid
  obtain ⟨t, ht, hpixels, -, -, hframe⟩ := exec_drw_xors (x := x) hvalid
  have hregx : t.reg x = s.reg x := hframe (.reg x) (by simpa using hx)
  have hregy : t.reg y = s.reg y := hframe (.reg y) (by simpa using hy)
  have hi : t.i = s.i := hframe .index (by simp)
  have hmem : ∀ a, t.mem.read a = s.mem.read a := fun a => hframe (.byte a) (by simp)
  have hvalid' : ∀ r < n.val, (t.reg y).toNat % 32 + r ≤ 31 → t.i.toNat + r ≤ 0xFFF := by
    rwa [hregy, hi]
  obtain ⟨u, hu, hpixels', -, hcollision, -⟩ := exec_drw_xors (x := x) hvalid'
  have hrestored : ∀ p < 2048, u.pixel p = s.pixel p := fun p hp => by
    rw [hpixels' p hp, hpixels p hp, spriteAt_congr n hregx hregy hi hmem, Bool.xor_assoc, Bool.xor_self,
      Bool.xor_false]
  refine ⟨t, u, ht, hu, Frame.ext_pixel hrestored, hcollision.trans ?_⟩
  refine exists_congr fun p => and_congr_right fun hp => ?_
  rw [hrestored p hp, and_comm]

end Sys2Proof.Machine
end

section
/-!
Memory and the fetch: a byte write seen through the access checks (R30, R31), the canonical form as equality
of data (log 8), and the big-endian word of a fetch (R32, R33).
-/

namespace Sys2Proof.Machine

theorem memRead_of_valid (m : Memory) {a : Nat} (h : a ≤ 0xFFF) : memRead m a = some (m.read a) :=
  memRead_eq_some.2 ⟨h, rfl⟩

/-- Settles O21: at a valid address the access checks let the law of a read after a write through, and above
0xFFF they answer none. -/
theorem writeChangesThatByteOnly : Obligations.WriteChangesThatByteOnly := by
  intro m a w
  refine ⟨fun h => ?valid, fun h => ⟨if_pos h, if_pos h⟩⟩
  case valid =>
    refine ⟨m.write a w, if_neg (Nat.not_lt.2 h), ?_, fun b hb => ?_, fun hwf => ?_⟩
    · rw [memRead_of_valid _ h, Memory.read_write_same]
    · rw [memRead, memRead, Memory.read_write_other m a b w hb]
    · exact Memory.wf_write hwf (Nat.lt_succ_of_le h)

/-- A canonical memory reads as unlisted above 0xFFF. -/
theorem Memory.read_above {lo : Nat} {m : Memory} (h : Memory.wfFrom lo m = true) {a : Nat}
    (ha : 0xFFF < a) : m.read a = Memory.unlisted a := by
  induction m generalizing lo with
  | nil => rfl
  | cons c m ih =>
    obtain ⟨d, u⟩ := c
    simp only [Memory.wfFrom, Bool.and_eq_true, decide_eq_true_eq] at h
    obtain ⟨⟨⟨-, hd⟩, -⟩, hm⟩ := h
    have hd : d < 4096 := hd
    rw [Memory.read, if_neg (by omega)]
    exact ih hm

/-- The first cell of a canonical memory shows in what its address reads as. -/
theorem Memory.read_head_ne_unlisted {lo a : Nat} {w : Byte} {m : Memory}
    (h : Memory.wfFrom lo ((a, w) :: m) = true) : Memory.read ((a, w) :: m) a ≠ Memory.unlisted a := by
  simp only [Memory.wfFrom, Bool.and_eq_true, decide_eq_true_eq] at h
  rw [Memory.read, if_pos rfl]
  exact h.1.2

/-- Canonical cells that read alike at every address are the same cells: the two lists have the same first
address, since the memory whose first cell lies higher reads as unlisted there. -/
theorem Memory.eq_of_read_eq {lo : Nat} {m m' : Memory} (h : Memory.wfFrom lo m = true)
    (h' : Memory.wfFrom lo m' = true) (hread : ∀ a, m.read a = m'.read a) : m = m' := by
  induction m generalizing lo m' with
  | nil =>
    cases m' with
    | nil => rfl
    | cons c m' => exact absurd (hread c.1).symm (Memory.read_head_ne_unlisted h')
  | cons c m ih =>
    obtain ⟨a, w⟩ := c
    cases m' with
    | nil => exact absurd (hread a) (Memory.read_head_ne_unlisted h)
    | cons c' m' =>
      obtain ⟨a', w'⟩ := c'
      have hhead := Memory.read_head_ne_unlisted h
      have hhead' := Memory.read_head_ne_unlisted h'
      simp only [Memory.wfFrom, Bool.and_eq_true, decide_eq_true_eq] at h h'
      obtain ⟨⟨⟨-, ha⟩, hw⟩, htail⟩ := h
      obtain ⟨⟨⟨-, ha'⟩, hw'⟩, htail'⟩ := h'
      have hle : a' ≤ a := by
        by_contra hlt
        rw [hread, Memory.read, if_neg (by omega)] at hhead
        exact hhead (Memory.read_below htail' (by omega))
      have hge : a ≤ a' := by
        by_contra hlt
        rw [← hread, Memory.read, if_neg (by omega)] at hhead'
        exact hhead' (Memory.read_below htail (by omega))
      obtain rfl : a = a' := Nat.le_antisymm hge hle
      obtain rfl : w = w' := by simpa only [Memory.read, if_pos] using hread a
      refine congrArg _ (ih htail htail' fun b => ?_)
      by_cases hb : a = b
      · subst hb
        rw [Memory.read_below htail (Nat.lt_succ_self a), Memory.read_below htail' (Nat.lt_succ_self a)]
      · simpa only [Memory.read, if_neg hb] using hread b

/-- Settles O22: above 0xFFF both memories read as unlisted, so they read alike everywhere. -/
theorem equalMemoriesAreEqualData : Obligations.EqualMemoriesAreEqualData := by
  intro m m' h h' hread
  refine Memory.eq_of_read_eq h h' fun a => ?_
  by_cases ha : a ≤ 0xFFF
  · exact hread a ha
  · rw [Memory.read_above h (by omega), Memory.read_above h' (by omega)]

/-- Settles O6: the word of a fetch is the big-endian word of its two bytes. -/
theorem fetchReadsBigEndian : Obligations.FetchReadsBigEndian := by
  intro m pc
  refine ⟨fun h => ⟨_, ?_, toNat_wordOfBytes _ _⟩, fun h => ?_⟩
  · rw [fetch_eq, if_pos h]
  · rw [fetch_eq, if_neg (by omega)]

end Sys2Proof.Machine
end

section
/-!
Everything an instruction can do, said once: it takes a fault on its condition of R102, or it makes one of
the changes of `Change`. The lists of who raises, writes and reads what (R16 to R24, R35, R102) are read off
from there.
-/

namespace Sys2Proof.Machine

/-- `Change i s t`: executing `i` in `s` without a fault leaves `t`. One constructor per kind of write, with
the instructions that make it. -/
inductive Change (i : Instr) (s : State) : State → Prop
  | nothing (w : Word) (hi : i = .unrecognized w) : Change i s s
  | literal (x : RegIdx) (b : Byte) (hi : ∃ nn, i = .ldImm x nn ∨ i = .addImm x nn ∨ i = .rnd x nn) :
      Change i s (s.setReg x b)
  | register (x : RegIdx) (b : Byte)
      (hi : ∃ y, i = .ldReg x y ∨ i = .orReg x y ∨ i = .andReg x y ∨ i = .xorReg x y) :
      Change i s (s.setReg x b)
  | flagLast (x y : RegIdx) (result flag : Byte)
      (hi : i = .addReg x y ∨ i = .subReg x y ∨ i = .subnReg x y) :
      Change i s ((s.setReg x result).setReg vf flag)
  | flagFirst (x y : RegIdx) (flag result : Byte) (hi : i = .shrReg x y ∨ i = .shlReg x y) :
      Change i s ((s.setReg vf flag).setReg x result)
  | timerRead (x : RegIdx) (hi : i = .ldVxDt x) : Change i s (s.setReg x s.dt)
  | registers (x : RegIdx) (hi : i = .loadRegs x) :
      Change i s (s.setV (loadFrom s.mem s.i.toNat (x.val + 1) s.v))
  | index (w : Word) (hi : (∃ nnn, i = .ldI nnn) ∨ (∃ x, i = .addI x) ∨ ∃ x, i = .ldF x) :
      Change i s (s.setI w)
  | delayTimer (x : RegIdx) (hi : i = .ldDtVx x) : Change i s (s.setDt (s.reg x))
  | soundTimer (x : RegIdx) (hi : i = .ldStVx x) : Change i s (s.setSt (s.reg x))
  | blank (hi : i = .cls) : Change i s (s.setFb Frame.blank)
  | sprite (x y : RegIdx) (n : Fin 16) (f : Frame) (flag : Byte) (hi : i = .drw x y n) :
      Change i s ((s.setFb f).setReg vf flag)
  | bytes (ws : List Byte) (hi : (∃ x, i = .ldB x) ∨ ∃ x, i = .storeRegs x)
      (hrange : s.i.toNat + ws.length ≤ Config.memSize) :
      Change i s (s.setMem (writeBytes s.mem s.i.toNat ws))
  | jump (nnn : Addr) (target : Word) (hi : i = .jp nnn ∨ i = .jpV0 nnn)
      (htarget : target.toNat ≤ 0x10FE) : Change i s (s.setPc target)
  | skip (c : Bool) (hi : (∃ x nn, i = .seImm x nn ∨ i = .sneImm x nn) ∨
        (∃ x y, i = .seReg x y ∨ i = .sneReg x y) ∨ ∃ x, i = .skp x ∨ i = .sknp x) :
      Change i s (s.skipIf c)
  | call (nnn : Addr) (hi : i = .call nnn) (hroom : s.sp.val < 12) :
      Change i s
        ((s.setStack (s.stack.set s.sp.val s.pc hroom) ⟨s.sp.val + 1, by omega⟩).setPc (addressOf nnn))
  | ret (hi : i = .ret) (hheld : s.sp.val ≠ 0) :
      Change i s
        ((s.setStack s.stack ⟨s.sp.val - 1, by omega⟩).setPc (s.stack[s.sp.val - 1]'(by omega)))

/-! What it means for an instruction that none of its faults is raised. -/

theorem room_of_not_raises {s : State} {nnn : Addr} (h : ∀ c, ¬ Raises (.call nnn) s c) :
    s.sp.val < 12 := by
  have hlt := s.sp.isLt
  have hne : s.sp.val ≠ 12 := fun hfull => h .stackOverflow ⟨⟨nnn, rfl⟩, Fin.ext hfull⟩
  omega

theorem held_of_not_raises {s : State} (h : ∀ c, ¬ Raises .ret s c) : s.sp.val ≠ 0 :=
  fun hempty => h .stackUnderflow ⟨rfl, Fin.ext hempty⟩

theorem key_of_not_raises {i : Instr} {s : State} {x : RegIdx} (hi : i = .skp x ∨ i = .sknp x)
    (h : ∀ c, ¬ Raises i s c) : (s.reg x).toNat ≤ 0x0F :=
  Nat.not_lt.1 fun hkey => h .keyRange ⟨x, hi, hkey⟩

theorem rows_valid_of_not_raises {s : State} {x y : RegIdx} {n : Fin 16}
    (h : ∀ c, ¬ Raises (.drw x y n) s c) :
    ∀ r < n.val, (s.reg y).toNat % 32 + r ≤ 31 → s.i.toNat + r ≤ 0xFFF :=
  fun r hr hrow => Nat.not_lt.1 fun hout => h .addressRange (.inl ⟨x, y, n, r, rfl, hr, hrow, hout⟩)

theorem digits_valid_of_not_raises {s : State} {x : RegIdx} (h : ∀ c, ¬ Raises (.ldB x) s c) :
    s.i.toNat + 2 ≤ 0xFFF :=
  Nat.not_lt.1 fun hout => h .addressRange (.inr (.inl ⟨x, rfl, hout⟩))

theorem registers_valid_of_not_raises {i : Instr} {s : State} {x : RegIdx}
    (hi : i = .storeRegs x ∨ i = .loadRegs x) (h : ∀ c, ¬ Raises i s c) : s.i.toNat + x.val ≤ 0xFFF :=
  Nat.not_lt.1 fun hout => h .addressRange (.inr (.inr ⟨x, hi, hout⟩))

/-- An instruction none of whose faults is raised makes one of its changes. -/
theorem exec_of_not_raises {i : Instr} {s : State} (h : ∀ c, ¬ Raises i s c) :
    ∃ t, exec i s = .next t ∧ Change i s t := by
  cases i with
  | cls => exact ⟨_, exec_cls s, .blank rfl⟩
  | ret =>
    have hheld := held_of_not_raises h
    exact ⟨_, exec_ret_of_held hheld, .ret rfl hheld⟩
  | jp nnn =>
    have hlt := nnn.isLt
    exact ⟨_, exec_jp nnn s, .jump nnn _ (.inl rfl) (by rw [toNat_addressOf]; omega)⟩
  | call nnn =>
    have hroom := room_of_not_raises h
    exact ⟨_, exec_call_of_room nnn hroom, .call nnn rfl hroom⟩
  | seImm x nn => exact ⟨_, exec_seImm x nn s, .skip _ (.inl ⟨x, nn, .inl rfl⟩)⟩
  | sneImm x nn => exact ⟨_, exec_sneImm x nn s, .skip _ (.inl ⟨x, nn, .inr rfl⟩)⟩
  | seReg x y => exact ⟨_, exec_seReg x y s, .skip _ (.inr (.inl ⟨x, y, .inl rfl⟩))⟩
  | sneReg x y => exact ⟨_, exec_sneReg x y s, .skip _ (.inr (.inl ⟨x, y, .inr rfl⟩))⟩
  | ldImm x nn => exact ⟨_, exec_ldImm x nn s, .literal x _ ⟨nn, .inl rfl⟩⟩
  | addImm x nn => exact ⟨_, exec_addImm x nn s, .literal x _ ⟨nn, .inr (.inl rfl)⟩⟩
  | rnd x nn => exact ⟨_, exec_rnd x nn s, .literal x _ ⟨nn, .inr (.inr rfl)⟩⟩
  | ldReg x y => exact ⟨_, exec_ldReg x y s, .register x _ ⟨y, .inl rfl⟩⟩
  | orReg x y => exact ⟨_, exec_orReg x y s, .register x _ ⟨y, .inr (.inl rfl)⟩⟩
  | andReg x y => exact ⟨_, exec_andReg x y s, .register x _ ⟨y, .inr (.inr (.inl rfl))⟩⟩
  | xorReg x y => exact ⟨_, exec_xorReg x y s, .register x _ ⟨y, .inr (.inr (.inr rfl))⟩⟩
  | addReg x y => exact ⟨_, exec_addReg x y s, .flagLast x y _ _ (.inl rfl)⟩
  | subReg x y => exact ⟨_, exec_subReg x y s, .flagLast x y _ _ (.inr (.inl rfl))⟩
  | subnReg x y => exact ⟨_, exec_subnReg x y s, .flagLast x y _ _ (.inr (.inr rfl))⟩
  | shrReg x y => exact ⟨_, exec_shrReg x y s, .flagFirst x y _ _ (.inl rfl)⟩
  | shlReg x y => exact ⟨_, exec_shlReg x y s, .flagFirst x y _ _ (.inr rfl)⟩
  | ldI nnn => exact ⟨_, exec_ldI nnn s, .index _ (.inl ⟨nnn, rfl⟩)⟩
  | addI x => exact ⟨_, exec_addI x s, .index _ (.inr (.inl ⟨x, rfl⟩))⟩
  | ldF x => exact ⟨_, exec_ldF x s, .index _ (.inr (.inr ⟨x, rfl⟩))⟩
  | jpV0 nnn =>
    have hnnn := nnn.isLt
    have hv0 := (s.reg 0).isLt
    exact ⟨_, exec_jpV0 nnn s, .jump nnn _ (.inr rfl) (by rw [toNat_indexedTarget]; omega)⟩
  | drw x y n => exact ⟨_, exec_drw_of_valid (rows_valid_of_not_raises h), .sprite x y n _ _ rfl⟩
  | skp x =>
    have hkey := key_of_not_raises (.inl rfl) h
    exact ⟨_, exec_skp_of_key hkey, .skip _ (.inr (.inr ⟨x, .inl rfl⟩))⟩
  | sknp x =>
    have hkey := key_of_not_raises (.inr rfl) h
    exact ⟨_, exec_sknp_of_key hkey, .skip _ (.inr (.inr ⟨x, .inr rfl⟩))⟩
  | ldVxDt x => exact ⟨_, exec_ldVxDt x s, .timerRead x rfl⟩
  | ldDtVx x => exact ⟨_, exec_ldDtVx x s, .delayTimer x rfl⟩
  | ldStVx x => exact ⟨_, exec_ldStVx x s, .soundTimer x rfl⟩
  | ldB x =>
    have hvalid := digits_valid_of_not_raises h
    exact ⟨_, exec_ldB_of_valid hvalid, .bytes _ (.inl ⟨x, rfl⟩) (Nat.succ_le_succ hvalid)⟩
  | storeRegs x =>
    have hvalid := registers_valid_of_not_raises (.inl rfl) h
    refine ⟨_, exec_storeRegs_of_valid hvalid, .bytes _ (.inr ⟨x, rfl⟩) ?_⟩
    rw [length_regsUpTo]
    exact Nat.succ_le_succ hvalid
  | loadRegs x =>
    have hvalid := registers_valid_of_not_raises (.inr rfl) h
    exact ⟨_, exec_loadRegs_of_valid hvalid, .registers x rfl⟩
  | unrecognized w => exact ⟨_, exec_unrecognized w s, .nothing w rfl⟩

/-- Every instruction, in every state, answers a next state: the one of its fault, or one of its changes. -/
theorem exec_cases (i : Instr) (s : State) :
    ∃ t, exec i s = .next t ∧ ((∃ c, Raises i s c ∧ t = s.enterFault c (s.pc - 2)) ∨ Change i s t) := by
  by_cases h : ∃ c, Raises i s c
  · obtain ⟨c, hc⟩ := h
    exact ⟨_, exec_of_raises hc, .inl ⟨c, hc, rfl⟩⟩
  · obtain ⟨t, ht, hchange⟩ := exec_of_not_raises (not_exists.1 h)
    exact ⟨t, ht, .inr hchange⟩

/-- The same as an inversion: what the next state of an instruction can be. -/
theorem cases_of_exec {i : Instr} {s t : State} (h : exec i s = .next t) :
    (∃ c, Raises i s c ∧ t = s.enterFault c (s.pc - 2)) ∨ Change i s t := by
  obtain ⟨t', ht', hcases⟩ := exec_cases i s
  rw [ht'] at h
  cases h
  exact hcases

/-! ### What a change reaches, and who makes it (R16 to R24) -/

/-- A register that differs after another was set is that other one. -/
theorem eq_of_reg_setReg_ne {s : State} {x r : RegIdx} {b : Byte} (h : (s.setReg x b).reg r ≠ s.reg r) :
    r = x := by
  by_contra hne
  exact h (reg_setReg_other s x r b hne)

/-- A register that differs after two were set is one of the two. -/
theorem eq_or_eq_of_reg_setReg_setReg_ne {s : State} {x y r : RegIdx} {a b : Byte}
    (h : ((s.setReg x a).setReg y b).reg r ≠ s.reg r) : r = y ∨ r = x := by
  by_contra hne
  rw [not_or] at hne
  exact h (by rw [reg_setReg_other _ _ _ _ hne.1, reg_setReg_other _ _ _ _ hne.2])

/-- A register that differs after `FX65` is one of those it loads. -/
theorem le_of_reg_loadFrom_ne {s : State} {x r : RegIdx} {base : Nat}
    (h : (s.setV (loadFrom s.mem base (x.val + 1) s.v)).reg r ≠ s.reg r) : r.val ≤ x.val := by
  by_contra hlt
  rw [setV_reg, getElem_loadFrom, if_neg (by omega)] at h
  exact h rfl

section Writers

variable {i : Instr} {s t : State} (h : Change i s t)
include h

/-- STATUS and FAULT_PC are written by faults only. -/
theorem Change.report_kept : t.status = s.status ∧ t.faultPc = s.faultPc := by
  cases h <;> simp

/-- The keypad and the draw fields are written by no instruction. -/
theorem Change.inputs_kept : t.key = s.key ∧ t.rnd = s.rnd ∧ t.draws = s.draws := by
  cases h <;> simp

theorem Change.reg_writers (x : RegIdx) (hx : x ≠ vf) (hne : t.reg x ≠ s.reg x) :
    (∃ nn, i = .ldImm x nn ∨ i = .addImm x nn ∨ i = .rnd x nn) ∨
    (∃ y, i = .ldReg x y ∨ i = .orReg x y ∨ i = .andReg x y ∨ i = .xorReg x y) ∨
    (∃ y, i = .addReg x y ∨ i = .subReg x y ∨ i = .subnReg x y ∨ i = .shrReg x y ∨ i = .shlReg x y) ∨
    i = .ldVxDt x ∨ ∃ last, x.val ≤ last.val ∧ i = .loadRegs last := by
  cases h with
  | literal x' b hi =>
    obtain rfl := eq_of_reg_setReg_ne hne
    exact .inl hi
  | register x' b hi =>
    obtain rfl := eq_of_reg_setReg_ne hne
    exact .inr (.inl hi)
  | flagLast x' y result flag hi =>
    obtain rfl := (eq_or_eq_of_reg_setReg_setReg_ne hne).resolve_left hx
    exact .inr (.inr (.inl ⟨y, by tauto⟩))
  | flagFirst x' y flag result hi =>
    obtain rfl := (eq_or_eq_of_reg_setReg_setReg_ne hne).resolve_right hx
    exact .inr (.inr (.inl ⟨y, by tauto⟩))
  | timerRead x' hi =>
    obtain rfl := eq_of_reg_setReg_ne hne
    exact .inr (.inr (.inr (.inl hi)))
  | registers last hi => exact .inr (.inr (.inr (.inr ⟨last, le_of_reg_loadFrom_ne hne, hi⟩)))
  | sprite x' y n f flag hi => exact absurd (reg_setReg_other _ vf x flag hx) hne
  | _ => exact absurd (by simp) hne

theorem Change.vf_writers (hne : t.reg vf ≠ s.reg vf) :
    (∃ x y, i = .addReg x y ∨ i = .subReg x y ∨ i = .subnReg x y ∨ i = .shrReg x y ∨ i = .shlReg x y) ∨
    (∃ x y n, i = .drw x y n) ∨
    (∃ nn, i = .ldImm vf nn ∨ i = .addImm vf nn ∨ i = .rnd vf nn) ∨
    (∃ y, i = .ldReg vf y ∨ i = .orReg vf y ∨ i = .andReg vf y ∨ i = .xorReg vf y) ∨
    i = .ldVxDt vf ∨ i = .loadRegs vf := by
  cases h with
  | flagLast x y result flag hi => exact .inl ⟨x, y, by tauto⟩
  | flagFirst x y flag result hi => exact .inl ⟨x, y, by tauto⟩
  | sprite x y n f flag hi => exact .inr (.inl ⟨x, y, n, hi⟩)
  | literal x b hi =>
    obtain rfl := eq_of_reg_setReg_ne hne
    exact .inr (.inr (.inl hi))
  | register x b hi =>
    obtain rfl := eq_of_reg_setReg_ne hne
    exact .inr (.inr (.inr (.inl hi)))
  | timerRead x hi =>
    obtain rfl := eq_of_reg_setReg_ne hne
    exact .inr (.inr (.inr (.inr (.inl hi))))
  | registers x hi =>
    have hle : vf.val ≤ x.val := le_of_reg_loadFrom_ne hne
    obtain rfl : x = vf := Fin.ext (Nat.le_antisymm (Nat.le_of_lt_succ x.isLt) hle)
    exact .inr (.inr (.inr (.inr (.inr hi))))
  | _ => exact absurd (by simp) hne

theorem Change.index_writers (hne : t.i ≠ s.i) :
    (∃ nnn, i = .ldI nnn) ∨ (∃ x, i = .addI x) ∨ ∃ x, i = .ldF x := by
  cases h with
  | index w hi => exact hi
  | _ => exact absurd (by simp) hne

theorem Change.delayTimer_writers (hne : t.dt ≠ s.dt) : ∃ x, i = .ldDtVx x := by
  cases h with
  | delayTimer x hi => exact ⟨x, hi⟩
  | _ => exact absurd (by simp) hne

theorem Change.soundTimer_writers (hne : t.st ≠ s.st) : ∃ x, i = .ldStVx x := by
  cases h with
  | soundTimer x hi => exact ⟨x, hi⟩
  | _ => exact absurd (by simp) hne

theorem Change.stack_writers (hne : t.stack ≠ s.stack) : ∃ nnn, i = .call nnn := by
  cases h with
  | call nnn hi => exact ⟨nnn, hi⟩
  | _ => exact absurd (by simp) hne

theorem Change.sp_writers (hne : t.sp ≠ s.sp) : i = .ret ∨ ∃ nnn, i = .call nnn := by
  cases h with
  | ret hi => exact .inl hi
  | call nnn hi => exact .inr ⟨nnn, hi⟩
  | _ => exact absurd (by simp) hne

theorem Change.memory_writers (hne : t.mem ≠ s.mem) : (∃ x, i = .ldB x) ∨ ∃ x, i = .storeRegs x := by
  cases h with
  | bytes ws hi => exact hi
  | _ => exact absurd (by simp) hne

theorem Change.frame_writers (hne : t.fb ≠ s.fb) : i = .cls ∨ ∃ x y n, i = .drw x y n := by
  cases h with
  | blank hi => exact .inl hi
  | sprite x y n f flag hi => exact .inr ⟨x, y, n, hi⟩
  | _ => exact absurd (by simp) hne

theorem Change.pc_writers (hne : t.pc ≠ s.pc) :
    i = .ret ∨ (∃ nnn, i = .jp nnn ∨ i = .call nnn ∨ i = .jpV0 nnn) ∨
      (∃ x nn, i = .seImm x nn ∨ i = .sneImm x nn) ∨ (∃ x y, i = .seReg x y ∨ i = .sneReg x y) ∨
      ∃ x, i = .skp x ∨ i = .sknp x := by
  cases h with
  | ret hi => exact .inl hi
  | call nnn hi => exact .inr (.inl ⟨nnn, .inr (.inl hi)⟩)
  | jump nnn target hi => exact .inr (.inl ⟨nnn, by tauto⟩)
  | skip c hi => exact .inr (.inr hi)
  | _ => exact absurd (by simp) hne

end Writers

/-- The instructions that can fault (R102). -/
theorem Raises.instructions {i : Instr} {s : State} {c : FaultCode} (h : Raises i s c) :
    i = .ret ∨ (∃ nnn, i = .call nnn) ∨ (∃ x y n, i = .drw x y n) ∨
      (∃ x, i = .ldB x ∨ i = .storeRegs x ∨ i = .loadRegs x) ∨ ∃ x, i = .skp x ∨ i = .sknp x := by
  cases c with
  | stackOverflow => exact .inr (.inl h.1)
  | stackUnderflow => exact .inl h.1
  | keyRange =>
    obtain ⟨x, hi, -⟩ := h
    exact .inr (.inr (.inr (.inr ⟨x, hi⟩)))
  | addressRange =>
    obtain ⟨x, y, n, r, hi, -⟩ | ⟨x, hi, -⟩ | ⟨x, hi, -⟩ := h
    · exact .inr (.inr (.inl ⟨x, y, n, hi⟩))
    · exact .inr (.inr (.inr (.inl ⟨x, .inl hi⟩)))
    · exact .inr (.inr (.inr (.inl ⟨x, .inr hi⟩)))

/-! ### The statements -/

/-- Settles O12: a fault in STATUS can only come from an instruction that met its condition, since a change
leaves STATUS at OK; and whoever meets the condition takes the fault. -/
theorem faultsHaveTheListedCauses : Obligations.FaultsHaveTheListedCauses := by
  intro i s t c hok hexec
  have hcauses : t.status = .fault c ↔ Raises i s c := by
    constructor
    · intro hfault
      rcases cases_of_exec hexec with ⟨c', hc', rfl⟩ | hchange
      · cases hfault
        exact hc'
      · rw [hchange.report_kept.1, hok] at hfault
        cases hfault
    · intro hraises
      rw [exec_of_raises hraises] at hexec
      cases hexec
      rfl
  cases c <;> exact hcauses

/-- Settles O18: a fault writes its report and nothing else, and of the changes each part has its own. -/
theorem eachPartHasItsWriters : Obligations.EachPartHasItsWriters := by
  intro i s t hexec
  rcases cases_of_exec hexec with ⟨c, hraises, rfl⟩ | hchange
  · exact ⟨fun _ _ => absurd rfl, absurd rfl, absurd rfl, absurd rfl, absurd rfl, absurd rfl, absurd rfl,
      absurd rfl, absurd rfl, fun _ => hraises.instructions, rfl, rfl, rfl⟩
  · have hreport : ¬ (t.status ≠ s.status ∨ t.faultPc ≠ s.faultPc) := fun hne =>
      hne.elim (absurd hchange.report_kept.1) (absurd hchange.report_kept.2)
    exact ⟨hchange.reg_writers, hchange.index_writers, hchange.delayTimer_writers,
      hchange.soundTimer_writers, hchange.stack_writers, hchange.sp_writers, hchange.memory_writers,
      hchange.frame_writers, hchange.pc_writers, fun hne => absurd hne hreport, hchange.inputs_kept⟩

/-- Settles O19: a fault writes no register, and the changes that reach `VF` are the listed ones. -/
theorem vfHasItsWriters : Obligations.VfHasItsWriters := by
  intro i s t hexec hne
  rcases cases_of_exec hexec with ⟨c, -, rfl⟩ | hchange
  · exact absurd rfl hne
  · exact hchange.vf_writers hne

end Sys2Proof.Machine
end

section
/-!
Who reads the keypad, the environment's byte and the timers (R21, R22, R56): an instruction that reads one
of them not at all does the same whatever it holds.
-/

namespace Sys2Proof.Machine

/-- The state with the keypad, the environment's byte and the two timers mapped. -/
def State.mapInputs (key : BitVec 16 → BitVec 16) (rnd dt st : Byte → Byte) (s : State) : State :=
  { s with key := key s.key, rnd := rnd s.rnd, dt := dt s.dt, st := st s.st }

theorem skipIf_mapInputs (key : BitVec 16 → BitVec 16) (rnd dt st : Byte → Byte) (s : State) (c : Bool) :
    (s.mapInputs key rnd dt st).skipIf c = (s.skipIf c).mapInputs key rnd dt st := by
  cases c <;> rfl

/-- Taking a fault reads none of the four. -/
theorem exec_mapInputs_of_raises {key : BitVec 16 → BitVec 16} {rnd dt st : Byte → Byte} {i : Instr}
    {s : State} {c : FaultCode} (h : Raises i s c) :
    exec i (s.mapInputs key rnd dt st) = .next ((s.enterFault c (s.pc - 2)).mapInputs key rnd dt st) :=
  exec_of_raises (s := s.mapInputs key rnd dt st) (by cases c <;> exact h)

/-- Where the readers and writers of an input are excepted, executing and mapping the inputs commute. -/
theorem exec_mapInputs {key : BitVec 16 → BitVec 16} {rnd dt st : Byte → Byte} {i : Instr} {s t : State}
    (h : exec i s = .next t) (hkey : ∀ x, i = .skp x ∨ i = .sknp x → key = id)
    (hrnd : ∀ x nn, i = .rnd x nn → rnd = id) (hdt : ∀ x, i = .ldVxDt x ∨ i = .ldDtVx x → dt = id)
    (hst : ∀ x, i = .ldStVx x → st = id) :
    exec i (s.mapInputs key rnd dt st) = .next (t.mapInputs key rnd dt st) := by
  by_cases hraises : ∃ c, Raises i s c
  · obtain ⟨c, hc⟩ := hraises
    rw [exec_of_raises hc] at h
    cases h
    exact exec_mapInputs_of_raises hc
  · have hnone := not_exists.1 hraises
    cases i with
    | ret =>
      have hheld := held_of_not_raises hnone
      cases h.symm.trans (exec_ret_of_held hheld)
      exact exec_ret_of_held (s := s.mapInputs key rnd dt st) hheld
    | call nnn =>
      have hroom := room_of_not_raises hnone
      cases h.symm.trans (exec_call_of_room nnn hroom)
      exact exec_call_of_room (s := s.mapInputs key rnd dt st) nnn hroom
    | drw x y n =>
      have hvalid := rows_valid_of_not_raises hnone
      cases h.symm.trans (exec_drw_of_valid hvalid)
      exact exec_drw_of_valid (s := s.mapInputs key rnd dt st) hvalid
    | ldB x =>
      have hvalid := digits_valid_of_not_raises hnone
      cases h.symm.trans (exec_ldB_of_valid hvalid)
      exact exec_ldB_of_valid (s := s.mapInputs key rnd dt st) hvalid
    | storeRegs x =>
      have hvalid := registers_valid_of_not_raises (.inl rfl) hnone
      cases h.symm.trans (exec_storeRegs_of_valid hvalid)
      exact exec_storeRegs_of_valid (s := s.mapInputs key rnd dt st) hvalid
    | loadRegs x =>
      have hvalid := registers_valid_of_not_raises (.inr rfl) hnone
      cases h.symm.trans (exec_loadRegs_of_valid hvalid)
      exact exec_loadRegs_of_valid (s := s.mapInputs key rnd dt st) hvalid
    | skp x =>
      obtain rfl := hkey x (.inl rfl)
      have hx := key_of_not_raises (.inl rfl) hnone
      cases h.symm.trans (exec_skp_of_key hx)
      rw [exec_skp_of_key (s := s.mapInputs id rnd dt st) hx, skipIf_mapInputs]
      rfl
    | sknp x =>
      obtain rfl := hkey x (.inr rfl)
      have hx := key_of_not_raises (.inr rfl) hnone
      cases h.symm.trans (exec_sknp_of_key hx)
      rw [exec_sknp_of_key (s := s.mapInputs id rnd dt st) hx, skipIf_mapInputs]
      rfl
    | seImm x nn | sneImm x nn | seReg x y | sneReg x y =>
      cases h
      exact congrArg Host.Outcome.next (skipIf_mapInputs key rnd dt st s _)
    | rnd x nn =>
      obtain rfl := hrnd x nn rfl
      cases h; rfl
    | ldVxDt x =>
      obtain rfl := hdt x (.inl rfl)
      cases h; rfl
    | ldDtVx x =>
      obtain rfl := hdt x (.inr rfl)
      cases h; rfl
    | ldStVx x =>
      obtain rfl := hst x rfl
      cases h; rfl
    | _ => cases h; rfl

/-- Settles O20: each clause maps one of the four inputs and leaves the others, for an instruction that does
not read it; `FX18` and `FX15` overwrite their timer. -/
theorem inputsAndTimersHaveTheirReaders : Obligations.InputsAndTimersHaveTheirReaders := by
  intro i s t h
  refine ⟨?key, ?rnd, ?soundTimer, ?soundTimerSet, ?delayTimer, ?delayTimerSet⟩
  case key =>
    intro hi k
    exact exec_mapInputs (key := fun _ => k) (rnd := id) (dt := id) (st := id) h
      (fun x hx => (hx.elim (hi x).1 (hi x).2).elim) (fun _ _ _ => rfl) (fun _ _ => rfl) fun _ _ => rfl
  case rnd =>
    intro hi b
    exact exec_mapInputs (key := id) (rnd := fun _ => b) (dt := id) (st := id) h
      (fun _ _ => rfl) (fun x nn hx => (hi x nn hx).elim) (fun _ _ => rfl) fun _ _ => rfl
  case soundTimer =>
    intro hi b
    exact exec_mapInputs (key := id) (rnd := id) (dt := id) (st := fun _ => b) h
      (fun _ _ => rfl) (fun _ _ _ => rfl) (fun _ _ => rfl) fun x hx => (hi x hx).elim
  case soundTimerSet =>
    rintro x b rfl
    cases h; rfl
  case delayTimer =>
    intro hi b
    exact exec_mapInputs (key := id) (rnd := id) (dt := fun _ => b) (st := id) h
      (fun _ _ => rfl) (fun _ _ _ => rfl) (fun x hx => (hx.elim (hi x).1 (hi x).2).elim) fun _ _ => rfl
  case delayTimerSet =>
    rintro x b rfl
    cases h; rfl

end Sys2Proof.Machine
end

section
/-!
What a STEP can do, said once (R56 to R60, R103, R104): a halted block stays, a fetch above 0xFFE takes its
fault, and otherwise the fetched word's instruction is executed after `PC` has moved past it. The statements
about single STEPs follow.
-/

namespace Sys2Proof.Machine

theorem fetch_of_le {m : Memory} {pc : Word} (h : pc.toNat ≤ 0xFFE) :
    fetch m pc = some (wordOfBytes (m.read pc.toNat) (m.read (pc.toNat + 1))) := by
  rw [fetch_eq, if_pos h]

theorem fetch_of_gt {m : Memory} {pc : Word} (h : 0xFFE < pc.toNat) : fetch m pc = none := by
  rw [fetch_eq, if_neg (Nat.not_le_of_gt h)]

/-- A word that was fetched stood at 0xFFE at most. -/
theorem le_of_fetch_eq_some {m : Memory} {pc w : Word} (h : fetch m pc = some w) : pc.toNat ≤ 0xFFE := by
  by_contra hgt
  rw [fetch_of_gt (by omega)] at h
  cases h

/-- The increment past a fetched word does not wrap (R58). -/
theorem toNat_add_two {pc : Word} (h : pc.toNat ≤ 0xFFE) : (pc + 2).toNat = pc.toNat + 2 := by
  rw [BitVec.toNat_add, show (2 : Word).toNat = 2 from rfl]
  omega

/-- The state in which the fetched instruction is executed: the byte latched, `PC` moved past the word. -/
def State.fetched (s : State) (b : Byte) : State := (s.latchRnd b).advance

theorem fetched_pc (s : State) (b : Byte) : (s.fetched b).pc = s.pc + 2 := rfl

theorem latchRnd_onlyChanges_draw (s : State) (b : Byte) :
    OnlyChanges (fun p => p = .rnd ∨ p = .draws) s (s.latchRnd b) := by
  intro p hp
  cases p with
  | rnd => exact absurd (.inl rfl) hp
  | draws => exact absurd (.inr rfl) hp
  | _ => rfl

theorem fetched_onlyChanges (s : State) (b : Byte) :
    OnlyChanges (fun p => p = .pc ∨ p = .rnd ∨ p = .draws) s (s.fetched b) :=
  ((latchRnd_onlyChanges_draw s b).mono fun _ => .inr).trans
    ((setPc_onlyChanges_pc (s.latchRnd b) (s.pc + 2)).mono fun _ => .inl)

theorem exists_cycle (b : Byte) (s : State) : ∃ t, cycle b s = .next t := by
  by_cases hs : s.status = .ok
  · cases hw : fetch s.mem s.pc with
    | none => exact ⟨_, cycle_of_no_fetch b hs hw⟩
    | some w =>
      obtain ⟨t, ht, -⟩ := exec_cases (decode w) (s.fetched b)
      exact ⟨t, (cycle_of_fetch b hs hw).trans ht⟩
  · exact ⟨s, cycle_of_halted b hs⟩

/-- What the next state of a STEP can be. -/
inductive Stepped (b : Byte) (s : State) : State → Prop
  | halted (hstatus : s.status ≠ .ok) : Stepped b s s
  | fetchFault (hstatus : s.status = .ok) (hpc : 0xFFE < s.pc.toNat) :
      Stepped b s ((s.latchRnd b).enterFault .addressRange s.pc)
  | executeFault (i : Instr) (c : FaultCode) (hstatus : s.status = .ok) (hpc : s.pc.toNat ≤ 0xFFE)
      (hraises : Raises i (s.fetched b) c) : Stepped b s ((s.fetched b).enterFault c s.pc)
  | changed (i : Instr) (t : State) (hstatus : s.status = .ok) (hpc : s.pc.toNat ≤ 0xFFE)
      (hchange : Change i (s.fetched b) t) : Stepped b s t

theorem stepped_of_cycle {b : Byte} {s t : State} (h : cycle b s = .next t) : Stepped b s t := by
  by_cases hs : s.status = .ok
  · cases hw : fetch s.mem s.pc with
    | none =>
      cases h.symm.trans (cycle_of_no_fetch b hs hw)
      refine .fetchFault hs (Nat.lt_of_not_le fun hle => ?_)
      rw [fetch_of_le hle] at hw
      cases hw
    | some w =>
      have hpc := le_of_fetch_eq_some hw
      have hexec : exec (decode w) (s.fetched b) = .next t := (cycle_of_fetch b hs hw).symm.trans h
      rcases cases_of_exec hexec with ⟨c, hraises, rfl⟩ | hchange
      · rw [fetched_pc, BitVec.add_sub_cancel]
        exact .executeFault _ c hs hpc hraises
      · exact .changed _ t hs hpc hchange
  · cases h.symm.trans (cycle_of_halted b hs)
    exact .halted hs

/-! ### The statements -/

/-- Settles O7: the two bytes are the fetched word, and `State.fetched` writes out as the state named. -/
theorem stepRunsTheDecodedInstruction : Obligations.StepRunsTheDecodedInstruction := by
  intro s i hs hpc hdecode
  obtain rfl : decode (wordOfBytes (s.mem.read s.pc.toNat) (s.mem.read (s.pc.toNat + 1))) = i := by
    cases hdecode; rfl
  have hcycle := fun b => cycle_of_fetch b hs (fetch_of_le hpc)
  exact ⟨hcycle _, hcycle⟩

/-- Settles O8: above 0xFFE nothing is fetched, and the draw and the report are all that is written. -/
theorem fetchFaultIsTaken : Obligations.FetchFaultIsTaken := by
  intro s hs hpc
  refine ⟨_, cycle_of_no_fetch _ hs (fetch_of_gt hpc), rfl, rfl, ?_⟩
  exact ((latchRnd_onlyChanges_draw s _).mono fun _ hp => .inr (.inr hp)).trans
    ((enterFault_onlyChanges_report _ _ _).mono fun _ hp => hp.imp_right .inl)

/-- Settles O9: a STEP answers in each of its three ways, an instruction by its fault or its change. -/
theorem everyStepAnswersNext : Obligations.EveryStepAnswersNext := by
  refine ⟨fun s => exists_cycle _ s, fun i s => ?_⟩
  obtain ⟨t, ht, -⟩ := exec_cases i s
  exact ⟨t, ht⟩

/-- Settles O11: of what a running block's STEP can do, only the two faults leave STATUS not OK, and each
writes the report alone, at the address of the word. -/
theorem faultsArePrecise : Obligations.FaultsArePrecise := by
  intro s t hs hstep hhalted
  cases stepped_of_cycle hstep with
  | halted hstatus => exact absurd hs hstatus
  | fetchFault _ hpc =>
    refine ⟨.addressRange, ?_⟩
    rw [if_neg (Nat.not_le_of_gt hpc)]
    rfl
  | executeFault i c _ hpc _ =>
    refine ⟨c, ?_⟩
    rw [if_pos hpc]
    rfl
  | changed i t _ _ hchange => exact absurd (hchange.report_kept.1.trans hs) hhalted

/-- Settles O37: executing the unrecognized word leaves the state, so a STEP of it leaves the one in which
`PC` has moved past the word. -/
theorem unrecognizedWordOnlyAdvancesPc : Obligations.UnrecognizedWordOnlyAdvancesPc := by
  refine ⟨fun s w => ⟨s, exec_unrecognized w s, OnlyChanges.refl _ s⟩, fun s w hs hw hdecode => ?_⟩
  have hstep : step s = .next (s.fetched (Config.rng s.draws)) := by
    rw [step, cycle_of_fetch _ hs hw, hdecode]
    exact exec_unrecognized w _
  exact ⟨_, hstep, toNat_add_two (le_of_fetch_eq_some hw), fetched_onlyChanges s _⟩

end Sys2Proof.Machine
end

section
/-!
The machine's invariant (R58, R70, R71, R103): it holds at power-on, every STEP keeps it, and so does every
other operation of the host, a failed LOAD included.
-/

namespace Sys2Proof.Machine

/-! ### One change -/

section Change

variable {i : Instr} {s t : State} (h : Change i s t)
include h

/-- Memory stays canonical: the only writers write bytes at valid addresses. -/
theorem Change.wf_mem (hwf : s.mem.wf = true) : t.mem.wf = true := by
  cases h with
  | bytes ws _ hrange => exact wf_writeBytes hwf hrange
  | _ => simpa using hwf

variable (hret : ∀ k : Fin 12, k.val < s.sp.val → 2 ≤ s.stack[k].toNat ∧ s.stack[k].toNat ≤ 0x1000)
include hret

/-- The farthest a change takes `PC` from at most 0x1000 is the greatest target of `BNNN`. -/
theorem Change.pc_bound (hpc : s.pc.toNat ≤ 0x1000) : t.pc.toNat ≤ 0x10FE := by
  cases h with
  | jump nnn target _ htarget => exact htarget
  | skip c _ =>
    rw [skipIf_pc]
    split_ifs
    · rw [BitVec.toNat_add, show (2 : Word).toNat = 2 from rfl]; omega
    · omega
  | call nnn _ _ =>
    have hlt := nnn.isLt
    rw [setPc_pc, toNat_addressOf]; omega
  | ret _ hheld =>
    have hbound := (hret ⟨s.sp.val - 1, by omega⟩ (Nat.sub_one_lt hheld)).2
    exact Nat.le_trans hbound (by omega)
  | _ => exact Nat.le_trans hpc (by omega)

/-- A call pushes the advanced `PC`, and no other change adds an entry. -/
theorem Change.return_addresses (hlow : 2 ≤ s.pc.toNat) (hhigh : s.pc.toNat ≤ 0x1000) :
    ∀ k : Fin 12, k.val < t.sp.val → 2 ≤ t.stack[k].toNat ∧ t.stack[k].toNat ≤ 0x1000 := by
  cases h with
  | call nnn _ hroom =>
    intro k hk
    have hk : k.val < s.sp.val + 1 := hk
    show 2 ≤ (s.stack.set s.sp.val s.pc hroom)[k].toNat ∧ (s.stack.set s.sp.val s.pc hroom)[k].toNat ≤ 0x1000
    by_cases htop : s.sp.val = k.val
    · simp [htop, hlow, hhigh]
    · simpa [htop] using hret k (by omega)
  | ret _ _ =>
    intro k hk
    have hk : k.val < s.sp.val - 1 := hk
    exact hret k (by omega)
  | _ => simpa using hret

end Change

/-! ### One STEP -/

/-- A fault raised while a fetched word executes is recorded as R103 says: `PC` is 2 past the word, and a
stack fault found the stack full, or empty. -/
theorem Raises.recorded {i : Instr} {s : State} {c : FaultCode} {a : Word} (h : Raises i s c)
    (hpc : s.pc = a + 2) (ha : a.toNat ≤ 0xFFE) : (s.enterFault c a).FaultRecorded c := by
  cases c with
  | stackOverflow => exact ⟨hpc, ha, h.2⟩
  | stackUnderflow => exact ⟨hpc, ha, h.2⟩
  | keyRange => exact ⟨hpc, ha⟩
  | addressRange => exact .inr ⟨hpc, ha⟩

/-- Taking a fault leaves a sound block sound where the fault is recorded. -/
theorem sound_enterFault {s : State} {c : FaultCode} {a : Word} (hpc : s.pc.toNat ≤ 0x10FE)
    (hret : ∀ k : Fin 12, k.val < s.sp.val → 2 ≤ s.stack[k].toNat ∧ s.stack[k].toNat ≤ 0x1000)
    (hrecorded : (s.enterFault c a).FaultRecorded c) : (s.enterFault c a).Sound where
  pcBound := hpc
  returnAddresses := hret
  report := by
    intro c' hc'
    cases hc'
    exact hrecorded

/-- Soundness speaks of a block whose last LOAD did not fail, so of every running one. -/
theorem State.Inv.sound_of_ok {s : State} (h : s.Inv) (hs : s.status = .ok) : s.Sound := by
  refine h.sound fun e he => ?_
  rw [hs] at he
  cases he

theorem inv_of_stepped {b : Byte} {s t : State} (hinv : s.Inv) (h : Stepped b s t) : t.Inv := by
  cases h with
  | halted _ => exact hinv
  | fetchFault hs hpc =>
    have hsound := hinv.sound_of_ok hs
    exact ⟨hinv.memory, fun _ =>
      sound_enterFault (s := s.latchRnd b) hsound.pcBound hsound.returnAddresses (.inl ⟨rfl, hpc⟩)⟩
  | executeFault i c hs hpc hraises =>
    have hsound := hinv.sound_of_ok hs
    have hbound : (s.fetched b).pc.toNat ≤ 0x10FE := by rw [fetched_pc, toNat_add_two hpc]; omega
    exact ⟨hinv.memory, fun _ =>
      sound_enterFault hbound hsound.returnAddresses (hraises.recorded (fetched_pc s b) hpc)⟩
  | changed i t hs hpc hchange =>
    have hret := (hinv.sound_of_ok hs).returnAddresses
    have hnext : (s.fetched b).pc.toNat = s.pc.toNat + 2 := toNat_add_two hpc
    refine ⟨hchange.wf_mem hinv.memory, fun _ => ⟨?_, ?_, fun c hc => ?_⟩⟩
    · exact hchange.pc_bound hret (by omega)
    · exact hchange.return_addresses hret (by omega) (by omega)
    · rw [hchange.report_kept.1] at hc
      exact absurd (hs.symm.trans hc) (by simp)

/-- Settles O15: the invariant is kept in each of the ways a STEP can go. -/
theorem stepKeepsTheInvariant : Obligations.StepKeepsTheInvariant :=
  fun _ _ hinv hstep => inv_of_stepped hinv (stepped_of_cycle hstep)

/-- Settles O14: no entry is held at power-on, and no fault is recorded. -/
theorem resetMeetsTheInvariant : Obligations.ResetMeetsTheInvariant where
  memory := rfl
  sound := fun _ =>
    { pcBound := by decide
      returnAddresses := fun _ hk => absurd hk (Nat.not_lt_zero _)
      report := fun _ hc => by cases hc }

/-! ### Every operation of the host -/

/-- What every operation of a schedule keeps, the schedule keeps; and it completes, one reply for each. -/
theorem runSchedule_keeps {P : State → Prop} {g : Config.Glyphs} {ops : List HostOp}
    (hkeep : ∀ op ∈ ops, ∀ s, P s → ∃ t r, perform g op s = .next (t, r) ∧ P t) {s : State} (hs : P s) :
    ∃ t replies, runSchedule g ops s = .next (t, replies) ∧ P t ∧ replies.length = ops.length := by
  induction ops generalizing s with
  | nil => exact ⟨s, [], rfl, hs, rfl⟩
  | cons op ops ih =>
    obtain ⟨t, r, hperform, ht⟩ := hkeep op (by simp) s hs
    obtain ⟨u, rs, hrun, hu, hlength⟩ := ih (fun op' hop' => hkeep op' (by simp [hop'])) ht
    exact ⟨u, r :: rs, runSchedule_cons hperform hrun, hu, congrArg (· + 1) hlength⟩

/-- Soundness speaks of `PC`, the stack and the report, and of nothing else. -/
theorem State.Sound.of_kept {s t : State} (h : s.Sound) (hpc : t.pc = s.pc) (hstack : t.stack = s.stack)
    (hsp : t.sp = s.sp) (hstatus : t.status = s.status) (hfaultPc : t.faultPc = s.faultPc) : t.Sound where
  pcBound := by rw [hpc]; exact h.pcBound
  returnAddresses := by rw [hstack, hsp]; exact h.returnAddresses
  report := by
    intro c hc
    have hrecorded := h.report c (hstatus.symm.trans hc)
    cases c <;> simpa only [State.FaultRecorded, hpc, hsp, hfaultPc] using hrecorded

/-- After a failed LOAD the invariant asks for canonical memory only. -/
theorem inv_loadFailed (s : State) (e : LoadError) : (s.loadFailed e).Inv where
  memory := by rw [loadFailed_mem]; exact wf_memoryOf _
  sound := fun hloaded => absurd rfl (hloaded e)

/-- A successful LOAD leaves `PC`, the stack and the report as power-on has them. -/
theorem inv_loaded (s : State) (g : Config.Glyphs) {image : List Byte} (h : image.length ≤ 3584) :
    (s.loaded g image).Inv where
  memory := wf_loadedMemory g image h
  sound := fun _ => (resetMeetsTheInvariant.sound_of_ok rfl).of_kept rfl rfl rfl rfl rfl

theorem inv_load (s : State) (g : Config.Glyphs) (image : List Byte) (readable : Bool) :
    (s.load g image readable).Inv := by
  rw [load_eq]
  split_ifs with _ hlength
  · exact inv_loadFailed s _
  · exact inv_loadFailed s _
  · exact inv_loaded s g (Nat.le_of_not_lt hlength)

theorem perform_keeps_inv (g : Config.Glyphs) (op : HostOp) {s : State} (h : s.Inv) :
    ∃ t r, perform g op s = .next (t, r) ∧ t.Inv := by
  cases op with
  | load image readable => exact ⟨_, _, rfl, inv_load s g image readable⟩
  | step b =>
    obtain ⟨t, ht⟩ := exists_cycle b s
    exact ⟨t, _, perform_step g ht, inv_of_stepped h (stepped_of_cycle ht)⟩
  | tick | keySet =>
    exact ⟨_, _, rfl, h.memory, fun he => (h.sound he).of_kept rfl rfl rfl rfl rfl⟩
  | fbRead | stRead | statusRead => exact ⟨s, _, rfl, h⟩

/-- Settles O16: every operation completes and keeps the invariant, so every schedule does. -/
theorem everyScheduleKeepsTheInvariant : Obligations.EveryScheduleKeepsTheInvariant :=
  fun g _ _ hs => runSchedule_keeps (fun op _ _ => perform_keeps_inv g op) hs

end Sys2Proof.Machine
end

section
/-!
Whole histories: a halted block stays halted and a parked one parked until a LOAD (R104, R117), and a host
that keeps its duties never steps a block whose LOAD failed (R113).
-/

namespace Sys2Proof.Machine

/-! ### Halted -/

theorem run_of_halted {s : State} (hs : s.status ≠ .ok) (n : Nat) : Sys2Proof.core.run n s = .next s := by
  induction n with
  | zero => rfl
  | succ n ih => rw [run_succ n (cycle_of_halted _ hs), ih]

theorem NoLoad.ne_load {op : HostOp} {ops : List HostOp} (h : NoLoad ops) (hop : op ∈ ops)
    (image : List Byte) (readable : Bool) : op ≠ .load image readable := by
  rintro rfl
  exact h image readable hop

/-- While a block is halted no operation but LOAD writes STATUS or FAULT_PC. -/
theorem perform_keeps_report {g : Config.Glyphs} {op : HostOp} {s : State} (hs : s.status ≠ .ok)
    (hop : ∀ image readable, op ≠ .load image readable) :
    ∃ t r, perform g op s = .next (t, r) ∧ t.status = s.status ∧ t.faultPc = s.faultPc := by
  cases op with
  | load image readable => exact absurd rfl (hop image readable)
  | step b => exact ⟨s, _, perform_step g (cycle_of_halted b hs), rfl, rfl⟩
  | tick | keySet | fbRead | stRead | statusRead => exact ⟨_, _, rfl, rfl, rfl⟩

/-- Settles O10: a halted block's STEP leaves it, and STATUS stays what it was, so not OK, along every
schedule without a LOAD. -/
theorem haltedIsFinalWithoutLoad : Obligations.HaltedIsFinalWithoutLoad := by
  intro s hs
  refine ⟨run_of_halted hs, fun g ops hnoLoad => ?_⟩
  have hkeep : ∀ op ∈ ops, ∀ u : State, u.status = s.status ∧ u.faultPc = s.faultPc →
      ∃ t r, perform g op u = .next (t, r) ∧ t.status = s.status ∧ t.faultPc = s.faultPc := by
    rintro op hop u ⟨hstatus, hfaultPc⟩
    rw [← hstatus, ← hfaultPc]
    exact perform_keeps_report (by rwa [hstatus]) (hnoLoad.ne_load hop)
  obtain ⟨t, replies, hrun, hreport, -⟩ := runSchedule_keeps hkeep ⟨rfl, rfl⟩
  exact ⟨t, replies, hrun, hreport⟩

/-! ### Parked -/

/-- Being parked is a matter of STATUS, memory and `PC`. -/
theorem State.Parked.of_kept {s t : State} (h : s.Parked) (hstatus : t.status = s.status)
    (hmem : t.mem = s.mem) (hpc : t.pc = s.pc) : t.Parked := by
  rw [State.Parked, hstatus, hmem, hpc]
  exact h

theorem State.SameBlock.trans {s t u : State} (h : s.SameBlock t) (h' : t.SameBlock u) : s.SameBlock u := by
  rw [State.SameBlock, h', h]

theorem run_of_parked {s : State} (hs : s.Parked) (n : Nat) :
    ∃ t, Sys2Proof.core.run n s = .next t ∧ s.SameBlock t ∧ t.Parked := by
  induction n generalizing s with
  | zero => exact ⟨s, rfl, rfl, hs⟩
  | succ n ih =>
    have hlatched : (s.latchRnd (Config.rng s.draws)).Parked := hs.of_kept rfl rfl rfl
    have hsame : s.SameBlock (s.latchRnd (Config.rng s.draws)) := rfl
    obtain ⟨t, hrun, hblock, hparked⟩ := ih hlatched
    refine ⟨t, ?_, hsame.trans hblock, hparked⟩
    rw [run_succ n (cycle_of_parked _ hs), hrun]

/-- The parts of a parked state that a schedule without a LOAD can reach. -/
def LiveWhileParked (p : Part) : Prop :=
  p = .delayTimer ∨ p = .soundTimer ∨ p = .keys ∨ p = .rnd ∨ p = .draws

theorem tick_onlyChanges_timers (s : State) :
    OnlyChanges (fun p => p = .delayTimer ∨ p = .soundTimer) s s.tick := by
  intro p hp
  cases p with
  | delayTimer => exact absurd (.inl rfl) hp
  | soundTimer => exact absurd (.inr rfl) hp
  | _ => rfl

theorem keySet_onlyChanges_keys (s : State) (k : KeyIdx) (down : Bool) :
    OnlyChanges (fun p => p = .keys) s (s.keySet k down) := by
  intro p hp
  cases p with
  | keys => exact absurd rfl hp
  | _ => rfl

/-- A parked state stays parked under every operation but LOAD. -/
theorem perform_keeps_parked {g : Config.Glyphs} {op : HostOp} {s : State} (hs : s.Parked)
    (hop : ∀ image readable, op ≠ .load image readable) :
    ∃ t r, perform g op s = .next (t, r) ∧ t.Parked ∧ OnlyChanges LiveWhileParked s t := by
  cases op with
  | load image readable => exact absurd rfl (hop image readable)
  | step b =>
    exact ⟨_, _, perform_step g (cycle_of_parked b hs), hs.of_kept rfl rfl rfl,
      (latchRnd_onlyChanges_draw s b).mono fun _ hp => .inr (.inr (.inr hp))⟩
  | tick =>
    exact ⟨_, _, rfl, hs.of_kept rfl rfl rfl,
      (tick_onlyChanges_timers s).mono fun _ hp => hp.imp_right .inl⟩
  | keySet k down =>
    exact ⟨_, _, rfl, hs.of_kept rfl rfl rfl,
      (keySet_onlyChanges_keys s k down).mono fun _ hp => .inr (.inr (.inl hp))⟩
  | fbRead | stRead | statusRead => exact ⟨s, _, rfl, hs, OnlyChanges.refl _ s⟩

theorem runSchedule_of_parked (g : Config.Glyphs) {ops : List HostOp} (hnoLoad : NoLoad ops) {s : State}
    (hs : s.Parked) :
    ∃ t replies, runSchedule g ops s = .next (t, replies) ∧ t.Parked ∧ OnlyChanges LiveWhileParked s t := by
  have hkeep : ∀ op ∈ ops, ∀ u : State, u.Parked ∧ OnlyChanges LiveWhileParked s u →
      ∃ t r, perform g op u = .next (t, r) ∧ t.Parked ∧ OnlyChanges LiveWhileParked s t := by
    rintro op hop u ⟨hparked, hframe⟩
    obtain ⟨t, r, hperform, ht, hframe'⟩ := perform_keeps_parked (g := g) hparked (hnoLoad.ne_load hop)
    exact ⟨t, r, hperform, ht, hframe.trans hframe'⟩
  obtain ⟨t, replies, hrun, ht, -⟩ := runSchedule_keeps hkeep ⟨hs, OnlyChanges.refl _ s⟩
  exact ⟨t, replies, hrun, ht⟩

/-- Settles O38: a STEP of a parked state moves the draw fields only, the other operations but LOAD the
timers and the keypad; and a finished program is parked from the first part of the schedule on. -/
theorem parkedStaysParked : Obligations.ParkedStaysParked := by
  refine ⟨fun s hs => run_of_parked hs, fun g ops s hnoLoad => ⟨runSchedule_of_parked g hnoLoad, ?_⟩⟩
  rintro ⟨first, rest, t, replies, rfl, -, hfirst, hparked⟩
  have hrest : NoLoad rest := fun image readable hmem =>
    hnoLoad image readable (List.mem_append_right first hmem)
  obtain ⟨u, replies', hrun, hparked', -⟩ := runSchedule_of_parked g hrest hparked
  exact ⟨u, _, runSchedule_append hfirst hrun, hparked'⟩

/-! ### Dutiful -/

/-- A schedule that completes has completed its first operation. -/
theorem runSchedule_cons_inv {g : Config.Glyphs} {op : HostOp} {ops : List HostOp} {s u : State}
    {replies : List Reply} (h : runSchedule g (op :: ops) s = .next (u, replies)) :
    ∃ t r rs, perform g op s = .next (t, r) ∧ runSchedule g ops t = .next (u, rs) := by
  rw [runSchedule] at h
  split at h
  case h_1 t r hperform =>
    split at h
    case h_1 v rs hrun =>
      cases h
      exact ⟨t, r, rs, hperform, hrun⟩
    all_goals cases h
  all_goals cases h

theorem load_of_readable (s : State) (g : Config.Glyphs) {image : List Byte} (h : image.length ≤ 3584) :
    s.load g image true = s.loaded g image := by
  rw [load_eq, if_neg (by decide), if_neg (Nat.not_lt.2 h)]

/-- The last LOAD did not fail. -/
def State.Loaded (s : State) : Prop := ∀ e, s.status ≠ .loadError e

theorem loaded_of_stepped {b : Byte} {s t : State} (hs : s.Loaded) (h : Stepped b s t) : t.Loaded := by
  cases h with
  | halted _ => exact hs
  | fetchFault _ _ => exact fun e he => by cases he
  | executeFault i c _ _ _ => exact fun e he => by cases he
  | changed i t hstatus _ hchange =>
    intro e he
    rw [hchange.report_kept.1] at he
    exact hs e he

theorem loaded_of_loadSucceeds {s : State} (g : Config.Glyphs) {image : List Byte} {readable : Bool}
    (h : loadSucceeds image readable = true) : (s.load g image readable).Loaded := by
  rw [loadSucceeds, Bool.and_eq_true, decide_eq_true_eq] at h
  obtain ⟨hreadable, hlength⟩ := h
  rw [hreadable, load_of_readable s g hlength]
  exact fun e he => by cases he

/-- Where `usable` implies that the last LOAD did not fail, so does the flag that `dutiful` carries to the
next STEP, and there it is true. -/
theorem loaded_of_dutiful {g : Config.Glyphs} {before after : List HostOp} {b : Byte} {usable : Bool}
    {s t : State} {replies : List Reply} (hs : usable = true → s.Loaded)
    (hduty : dutiful usable (before ++ .step b :: after) = true)
    (hrun : runSchedule g before s = .next (t, replies)) : t.Loaded := by
  induction before generalizing usable s replies with
  | nil =>
    cases hrun
    rw [List.nil_append, dutiful, Bool.and_eq_true] at hduty
    exact hs hduty.1
  | cons op ops ih =>
    obtain ⟨u, r, rs, hperform, hrest⟩ := runSchedule_cons_inv hrun
    rw [List.cons_append] at hduty
    cases op with
    | load image readable =>
      cases hperform
      exact ih (loaded_of_loadSucceeds g) hduty hrest
    | step b' =>
      rw [dutiful, Bool.and_eq_true] at hduty
      obtain ⟨u', hcycle⟩ := exists_cycle b' s
      cases hperform.symm.trans (perform_step g hcycle)
      exact ih (fun hu => loaded_of_stepped (hs hu) (stepped_of_cycle hcycle)) hduty.2 hrest
    | tick =>
      cases hperform
      exact ih (s := s.tick) hs hduty hrest
    | keySet k down =>
      cases hperform
      exact ih (s := s.keySet k down) hs hduty hrest
    | fbRead | stRead | statusRead =>
      cases hperform
      exact ih hs hduty hrest

/-- Settles O17: `dutiful true` starts from a block whose last LOAD did not fail. -/
theorem dutifulStepsFindALoadedBlock : Obligations.DutifulStepsFindALoadedBlock :=
  fun _ _ _ _ _ _ _ hs hduty hrun => loaded_of_dutiful (fun _ => hs) hduty hrun

end Sys2Proof.Machine
end

section
/-!
The operations of the host one by one (R112): TICK (R109), KEY_SET and the reads, and LOAD with its two
failures (R118 to R121).
-/

namespace Sys2Proof.Machine

theorem toNat_countDown (b : Byte) : (countDown b).toNat = b.toNat - 1 := by
  unfold countDown
  split_ifs with h
  · rw [h]; rfl
  · have hpos : b.toNat ≠ 0 := fun h0 => h (BitVec.eq_of_toNat_eq h0)
    have hlt := b.isLt
    rw [toNat_sub_byte, show (1 : Byte).toNat = 1 from rfl]
    omega

/-- Settles O56: both timers count down, each on its own value, and only they change. -/
theorem tickCountsBothTimersDown : Obligations.TickCountsBothTimersDown :=
  fun s _ => ⟨s.tick, rfl, toNat_countDown s.dt, toNat_countDown s.st, tick_onlyChanges_timers s⟩

theorem keyDown_keySet (s : State) (k j : KeyIdx) (down : Bool) :
    (s.keySet k down).keyDown j.val = if j = k then down else s.keyDown j.val := by
  have hj := j.isLt
  have hbit : (1#16 <<< k.val).getLsbD j.val = decide (j = k) := by
    rw [BitVec.getLsbD_shiftLeft, BitVec.getLsbD_one, Bool.eq_iff_iff]
    simp [Fin.ext_iff]
    omega
  simp only [State.keyDown, keySet_key]
  cases down
  · simp only [Bool.false_eq_true, if_false, BitVec.getLsbD_and, BitVec.getLsbD_not, hj, decide_true,
      Bool.true_and, hbit]
    by_cases h : j = k <;> simp [h]
  · simp only [if_true, BitVec.getLsbD_or, hbit]
    by_cases h : j = k <;> simp [h]

/-- Settles O57: KEY_SET writes one bit of the keypad, the reads reply and leave the state, and STEP replies
with the STATUS it leaves. -/
theorem keySetAndReadsActAsListed : Obligations.KeySetAndReadsActAsListed := by
  intro s g k down
  refine ⟨⟨_, rfl, fun j => keyDown_keySet s k j down, keySet_onlyChanges_keys s k down⟩,
    fun b => ?_, rfl, rfl, rfl⟩
  obtain ⟨t, ht⟩ := exists_cycle b s
  exact ⟨t, ht, perform_step g ht⟩

/-- A register or stack entry of a block full of one value holds that value. -/
theorem reg_of_replicate {s : State} {b : Byte} (h : s.v = Vector.replicate 16 b) (x : RegIdx) :
    s.reg x = b := by
  simp [State.reg, h]

theorem stackEntry_of_replicate {s : State} {w : Word} (h : s.stack = Vector.replicate 12 w) (k : Fin 12) :
    s.stack[k] = w := by
  simp [h]

/-- Settles O58: the reset value of every item, and what the two writes of LOAD leave in memory. -/
theorem loadInitialisesTheBlock : Obligations.LoadInitialisesTheBlock := by
  intro s g image hlength
  have hread := read_loadedMemory g image
  refine ⟨s.loaded g image, ?_, rfl, fun j hj => ?font, fun a hlo hhi => ?gap, fun j hj => ?image,
    fun a hlo _ => ?rest, reg_of_replicate (loaded_v s g image), rfl, rfl, rfl,
    stackEntry_of_replicate (loaded_stack s g image), rfl, rfl, pixel_blank, rfl, rfl⟩
  · rw [perform, load_of_readable s g hlength, loaded_status]
  case font => rw [loaded_mem, hread, if_neg (by omega), if_pos hj]
  case gap => rw [loaded_mem, hread, if_neg (by omega), if_neg (by omega)]
  case image => rw [loaded_mem, hread, if_pos (by omega), Nat.add_sub_cancel_left]
  case rest => rw [loaded_mem, hread, if_neg (by omega), if_neg (by omega)]

/-- Settles O59: each failure leaves its error in STATUS, and a block with an error there is halted. -/
theorem failedLoadReportsItsError : Obligations.FailedLoadReportsItsError := by
  intro s g image
  have halted : ∀ e, step (s.loadFailed e) = .next (s.loadFailed e) := fun e =>
    cycle_of_halted _ (by simp)
  refine ⟨⟨s.loadFailed .unreadable, rfl, rfl, halted _⟩,
    fun hlength => ⟨s.loadFailed .tooLarge, ?_, rfl, halted _⟩⟩
  have hload : s.load g image true = s.loadFailed .tooLarge := by
    rw [load_eq, if_neg (by decide), if_pos hlength]
  rw [perform, hload]

/-- The empty image with the default font leaves the memory of power-on: both are canonical, and both read
as the font and then zeros. -/
theorem loadedMemory_default_nil : loadedMemory Config.defaultGlyphs [] = [] := by
  refine Memory.eq_of_read_eq (wf_loadedMemory _ _ (Nat.zero_le _)) (lo := 0) (m' := []) rfl fun a => ?_
  rw [read_loadedMemory, if_neg (by simp)]
  split_ifs with ha
  · rfl
  · exact (unlisted_above_font (by omega)).symm

/-- Settles O60: a successful LOAD takes nothing but the draw fields from the state before, and the empty
one writes power-on's memory. -/
theorem resetRestoresTheLoadState : Obligations.ResetRestoresTheLoadState := by
  refine ⟨fun s s' g image hlength => ?_, fun s => ?_⟩
  · rw [load_of_readable s g hlength, load_of_readable s' g hlength]
    rfl
  · rw [load_of_readable s _ (Nat.zero_le _), State.loaded, loadedMemory_default_nil]
    rfl

/-- Settles O13: power-on's items are written out; memory lists nothing, so it reads as unlisted. -/
theorem resetLeavesTheListedValues : Obligations.ResetLeavesTheListedValues := by
  refine ⟨reg_of_replicate rfl, rfl, rfl, rfl, stackEntry_of_replicate rfl, rfl, rfl, pixel_blank,
    fun k => ?keys, rfl, rfl, ?glyph0, fun a ha => ?zeros⟩
  case keys => exact BitVec.getLsbD_zero
  case glyph0 => decide
  case zeros => exact unlisted_above_font ha

end Sys2Proof.Machine
end
